-- ==== Sys2Proof/Word.lean ====
section
/-! DEFINITION. The number types of 00_scope.md rule R19, the two motors, and a record that holds one
thing for each motor. -/

namespace Sys2Proof

/-- `Byte`: an integer in 0..255 (R19). -/
abbrev Byte := BitVec 8

/-- `U11`: an integer in 0..2047 (R19), one field of a parity frame. -/
abbrev U11 := BitVec 11

/-- `U16`: an integer in 0..65535 (R19), one channel register. -/
abbrev U16 := BitVec 16

/-- `Q`: the rationals, exact (R19). -/
abbrev Q := Rat

/-- `Time`: a non-negative rational number of seconds (R19). That an operand of this type is not
negative is a check of `Instr.wellFormed`. -/
abbrev Time := Rat

/-- `Motor` is {`L`, `R`} with `L = 0` (left) and `R = 1` (right) (R19). -/
inductive Motor where
  | L
  | R
deriving DecidableEq, Repr

/-- One thing for each motor: the registers the spec writes `x[m]`, and the operand `ovr : Motor → Option Q`. -/
structure PerMotor (α : Type) where
  l : α
  r : α
deriving DecidableEq, Repr

/-- The entry of motor `m`. -/
def PerMotor.get {α : Type} (p : PerMotor α) : Motor → α
  | .L => p.l
  | .R => p.r

/-- `p` with the entry of motor `m` replaced. -/
def PerMotor.set {α : Type} (p : PerMotor α) (m : Motor) (x : α) : PerMotor α :=
  match m with
  | .L => { p with l := x }
  | .R => { p with r := x }

/-- A ChannelSet (10_state.md R34): the value of channel `k` (1..16) stands at position `k - 1`;
`none` is an absent channel. -/
abbrev ChannelSet := Vector (Option U16) 16

end Sys2Proof
end

