-- ==== Sys2Proof/Config.lean ====
section
/-! DEFINITION. The configuration record `cfg` of 00_scope.md rules R11 to R18: what `RESET` fixes and no
other operation changes. One structure per unit, one field per parameter, the spec's defaults, and the one
value the spec leaves free, the rounding function of a datapath that is not exact. -/

namespace Sys2Proof

/-- `VARIANT` (R12): which of the two frame formats the FrameDecoder runs. -/
inductive Variant where
  | interval
  | parity
deriving DecidableEq, Repr

/-- A mode name (R13, 10_state.md R38). The three names of the default table, and every further name a
configuration may bring, numbered. -/
inductive Mode where
  | normal
  | safe
  | verbose
  | named (id : Nat)
deriving DecidableEq, Repr

/-- `NUM_RND : Q → Q` (R18) as data: the default, exact arithmetic, or the `id`-th rounding function of a
fixed-point or floating-point datapath. -/
inductive NumRnd where
  | exact
  | custom (id : Nat)
deriving DecidableEq, Repr

/-- The rounding functions other than the identity. R18: "It is OPEN"; the spec assumes "only that it is a
total function of its argument". A free value: it has no body (notes/assumptions/9.md). -/
opaque Config.customRnd : Nat → Q → Q

/-- ChannelMapper parameters (R13). -/
structure MapperParams where
  center : Int
  deadzone : Int
  fullScale : Int
  saneLo : Int
  saneHi : Int
  modeTol : Int
  modeTable : List (Int × Mode)
  modeSafe : Mode
  modeVerbose : Mode
  dirInvert : Bool
  chVeer : Nat
  chDir : Nat
  chThrottle : Nat
  chPivot : Nat
  chArm : Nat
  chBrake : Nat
  chMode : Nat
deriving DecidableEq, Repr

/-- MotionStateMachine parameters (R14). -/
structure MotionParams where
  warmupCount : Int
  armCount : Int
  armBand : Int
  brakeLo : Int
  brakeHi : Int
  advInterval : Time
deriving DecidableEq, Repr

/-- PIDController parameters of one motor (R16): the reset values of its gain, setpoint and bound registers. -/
structure PidInit where
  kp0 : Q
  ki0 : Q
  kd0 : Q
  sp0 : Q
  outMin0 : Q
  outMax0 : Q
deriving DecidableEq, Repr

/-- AutoTuner parameters (R17). -/
structure TunerParams where
  kpStart : Q
  kpStep : Q
  kpEnd : Q
  minCrossings : Int
  trialDuration : Time
  sweepBudget : Time
  znKp : Q
  znKiNum : Q
  znKdDen : Q
deriving DecidableEq, Repr

/-- Every parameter but `VARIANT` (R12 to R18). -/
structure Params where
  bufCap : Int
  mapper : MapperParams
  motion : MotionParams
  ppr : PerMotor Int
  pidInit : PerMotor PidInit
  antiWindup : Bool
  tuner : TunerParams
  numRnd : NumRnd
deriving DecidableEq, Repr

/-- The configuration in force: `VARIANT` and the parameters. -/
structure Cfg where
  variant : Variant
  par : Params
deriving DecidableEq, Repr

/-- The defaults of R13. -/
def MapperParams.default : MapperParams where
  center := 1500
  deadzone := 50
  fullScale := 500
  saneLo := 1000
  saneHi := 2000
  modeTol := 20
  modeTable := [(1000, .normal), (1500, .safe), (2000, .verbose)]
  modeSafe := .safe
  modeVerbose := .verbose
  dirInvert := false
  chVeer := 1
  chDir := 2
  chThrottle := 3
  chPivot := 4
  chArm := 5
  chBrake := 6
  chMode := 7

/-- The defaults of R14. DESIGN CHOICE, unsafe (notes/assumptions/27.md): `ARM_BAND`, `BRAKE_LO` and `BRAKE_HI` are the
numbers R14 gives them with the default `CENTER` and `DEADZONE`, and do not follow an overridden `CENTER` or `DEADZONE`. -/
def MotionParams.default : MotionParams where
  warmupCount := 2
  armCount := 3
  armBand := 50
  brakeLo := 1450
  brakeHi := 1550
  advInterval := 5

/-- The defaults of R16; the gains are OPEN and take the test vectors' 1, 0, 0 (notes/assumptions/8.md). -/
def PidInit.default : PidInit where
  kp0 := 1
  ki0 := 0
  kd0 := 0
  sp0 := 0
  outMin0 := 0
  outMax0 := 1

/-- The defaults of R17; `TRIAL_DURATION` and `SWEEP_BUDGET` are OPEN and take the values of programs 3
and 5 of 95_test_vectors.md (notes/assumptions/8.md). -/
def TunerParams.default : TunerParams where
  kpStart := 1
  kpStep := 5
  kpEnd := 96
  minCrossings := 6
  trialDuration := 6
  sweepBudget := 100
  znKp := 3 / 5
  znKiNum := 2
  znKdDen := 8

/-- The defaults of R12 to R18. -/
def Params.default : Params where
  bufCap := 256
  mapper := .default
  motion := .default
  ppr := ⟨20, 20⟩
  pidInit := ⟨.default, .default⟩
  antiWindup := true
  tuner := .default
  numRnd := .exact

/-- The default configuration, with the variant 95_test_vectors.md uses when it names none
(DESIGN CHOICE: R12 gives `VARIANT` no default; notes/assumptions/8.md). -/
def Cfg.default : Cfg where
  variant := .interval
  par := .default

end Sys2Proof
end

