-- ==== Sys2Proof/Syntax.lean ====
section
/-! DEFINITION. The operations of RCB as syntax: one constructor per row of spec/opcode_table.json
(30_encoding.md rules R125 to R131), in the table's order, each with the operands its row lists, and the operation type
of R127, which leaves out the reserved code. -/

namespace Sys2Proof

/-- What can be issued: a row of spec/opcode_table.json with its operands. Every row but that of code `0xF` is an
operation (`Operation` below). -/
inductive Instr where
  /-- `IFRAME`: an interval packet (R101) with channels 1..14 and its stored checksum; as an operation, the
  `FD_FEED` of its 32 bytes (R131). -/
  | iframe (ch : Vector U16 14) (cksum : U16)
  /-- `PFRAME`: a parity frame (R108) with channels 1..16 and byte 23; as an operation, the `FD_FEED` of its
  25 bytes (R131). -/
  | pframe (ch : Vector U11 16) (b23 : Byte)
  /-- `RESET cfg` (70_reset_and_hazards.md R420). `variant = none` is a record in which `VARIANT` is not
  given (V1 of R431). -/
  | reset (variant : Option Variant) (par : Params)
  /-- `FD_FEED b` (40_frame_decoder.md R146). -/
  | fdFeed (b : Byte)
  /-- `MSM_CYCLE cs, t, ovr` (42_motion_state_machine.md R210). -/
  | msmCycle (cs : ChannelSet) (t : Time) (ovr : PerMotor (Option Q))
  /-- `PRE_SAMPLE m, delta, elapsed` (43_pulse_rate_estimator.md R260). -/
  | preSample (m : Motor) (delta : Nat) (elapsed : Q)
  /-- `PRE_TICK m, count, t` (43_pulse_rate_estimator.md R264). -/
  | preTick (m : Motor) (count : Nat) (t : Time)
  /-- `PID_UPDATE m, meas, t` (44_pid_controller.md R282). -/
  | pidUpdate (m : Motor) (meas : Q) (t : Time)
  /-- `PID_RESET m` (44_pid_controller.md R290). -/
  | pidReset (m : Motor)
  /-- `PID_SET_GAINS m, kp, ki, kd` (44_pid_controller.md R292). -/
  | pidSetGains (m : Motor) (kp ki kd : Q)
  /-- `PID_SET_SETPOINT m, sp` (44_pid_controller.md R294). -/
  | pidSetSetpoint (m : Motor) (sp : Q)
  /-- `PID_SET_BOUNDS m, lo, hi` (44_pid_controller.md R296). -/
  | pidSetBounds (m : Motor) (lo hi : Q)
  /-- `AT_START m, sp, t` (45_auto_tuner.md R310). -/
  | atStart (m : Motor) (sp : Q) (t : Time)
  /-- `AT_SAMPLE rate, t` (45_auto_tuner.md R314). -/
  | atSample (rate : Q) (t : Time)
  /-- `AT_CANCEL` (45_auto_tuner.md R330). -/
  | atCancel
  /-- `CM_MAP cs`, a query (41_channel_mapper.md R180). -/
  | cmMap (cs : ChannelSet)
  /-- `PRE_RPM m, rate`, a query (43_pulse_rate_estimator.md R268). -/
  | preRpm (m : Motor) (rate : Q)
  /-- The row of code `0xF`, which names no operation: what a command port presents, and no `Operation` (R127;
  notes/assumptions/23.md). -/
  | reservedF
  /-- `FD_FEED_BURST b0 .. bn`, a pseudo-operation (40_frame_decoder.md R152). -/
  | fdFeedBurst (bytes : List Byte)
  /-- `LOOP_POLL bytes, t, ovr`, a pseudo-operation (46_control_loop.md R350). -/
  | loopPoll (bytes : List Byte) (t : Time) (ovr : PerMotor (Option Q))
  /-- `CM_RANGE cs`, a query (41_channel_mapper.md R191). -/
  | cmRange (cs : ChannelSet)
deriving DecidableEq, Repr

/-- The 4-bit operation code (R125); the frame formats and the pseudo-operations have none (R131). -/
def Instr.opCode : Instr → Option Nat
  | .reset .. => some 0x0
  | .fdFeed .. => some 0x1
  | .msmCycle .. => some 0x2
  | .preSample .. => some 0x3
  | .preTick .. => some 0x4
  | .pidUpdate .. => some 0x5
  | .pidReset .. => some 0x6
  | .pidSetGains .. => some 0x7
  | .pidSetSetpoint .. => some 0x8
  | .pidSetBounds .. => some 0x9
  | .atStart .. => some 0xA
  | .atSample .. => some 0xB
  | .atCancel => some 0xC
  | .cmMap .. => some 0xD
  | .preRpm .. => some 0xE
  | .reservedF => some 0xF
  | .iframe .. => none
  | .pframe .. => none
  | .fdFeedBurst .. => none
  | .loopPoll .. => none
  | .cmRange .. => none

/-- Whether a row names an operation: code `0xF` "names no operation" (R127). -/
def Instr.namesOperation (i : Instr) : Bool := i.opCode != some 0xF

/-- The operation type of R127: nothing in it stands for code `0xF` (notes/assumptions/23.md). -/
abbrev Operation : Type := { i : Instr // i.namesOperation = true }

end Sys2Proof
end

