-- ==== Sys2Proof/WellFormed.lean ====
section
/-! DEFINITION. Which operands an operation may carry. The widths (Byte, U11, U16, 16 channels, 1-bit Motor)
are in the types; what is left to check is that a `Time` is not negative (00_scope.md R19). A configuration
that fails `valid_cfg` and bounds with `lo > hi` are NOT ill-formed: the operations meet them and refuse them
(70_reset_and_hazards.md R432, 44_pid_controller.md R296). -/

namespace Sys2Proof

/-- `Time` is a non-negative rational (R19). -/
def timeOk (t : Time) : Bool := decide (0 ≤ t)

/-- Every `Time` operand of the operation is non-negative. -/
def Instr.wellFormed : Instr → Bool
  | .msmCycle _ t _ => timeOk t
  | .preTick _ _ t => timeOk t
  | .pidUpdate _ _ t => timeOk t
  | .atStart _ _ t => timeOk t
  | .atSample _ t => timeOk t
  | .loopPoll _ t _ => timeOk t
  | .iframe .. => true
  | .pframe .. => true
  | .reset .. => true
  | .fdFeed .. => true
  | .preSample .. => true
  | .pidReset .. => true
  | .pidSetGains .. => true
  | .pidSetSetpoint .. => true
  | .pidSetBounds .. => true
  | .atCancel => true
  | .cmMap .. => true
  | .preRpm .. => true
  | .reservedF => true
  | .fdFeedBurst .. => true
  | .cmRange .. => true

end Sys2Proof
end

