-- ==== Sys2Proof/Decode.lean ====
section
/-! DEFINITION. Bytes to operations and back.

Part 1: the two frame formats of 30_encoding.md (R100 to R113), which the FrameDecoder and the rows `IFRAME`
and `PFRAME` share. Part 2: a request, which is one issued operation as bytes. The 4-bit operation code is the
spec's (R125); the layout of the operands behind it is the model's, since R126 fixes none
(notes/assumptions/2.md, 3.md, 4.md). Part 3: the encoder. Part 4: the words of spec/opcode_table.json. -/

namespace Sys2Proof

/-! ### Part 1: the frame formats -/

/-- The little-endian unsigned integer made of the bytes of `bs` (R72): `Σ bs[i] << (8·i)`. -/
def leNat : List Byte → Nat
  | [] => 0
  | b :: bs => b.toNat + 256 * leNat bs

/-- The `k` lowest bytes of `n`, least significant first (R72). -/
def leBytes : Nat → Nat → List Byte
  | 0, _ => []
  | k + 1, n => BitVec.ofNat 8 n :: leBytes k (n / 256)

/-- The bytes at offsets `a .. a+n-1`. -/
def slice (w : List Byte) (a n : Nat) : List Byte := (w.drop a).take n

/-- `MemRead(a, n)` of the byte list `w` (00_scope.md R21). "Defined only when `a + n ≤ |buf|`": it is used on whole
windows only, which reach that far. -/
def memRead (w : List Byte) (a n : Nat) : Nat := leNat (slice w a n)

/-- The byte at offset `i` of a window; used where the window is known to reach that far. -/
def byteAt (w : List Byte) (i : Nat) : Byte := w.getD i 0

/-- `Σ w[i]`: the bytes of `w` added up as integers. -/
def byteSum : List Byte → Nat
  | [] => 0
  | b :: bs => b.toNat + byteSum bs

/-- `FRAME_LEN` (R12, R100). -/
def frameLen : Variant → Nat
  | .interval => 32
  | .parity => 25

/-- `N_CH` (R12). -/
def channelCount : Variant → Nat
  | .interval => 14
  | .parity => 16

/-- `START`, the byte list a frame begins with (R11, R142). -/
def startPattern : Variant → List Byte
  | .interval => [0x20, 0x40]
  | .parity => [0x0F]

/-- The computed checksum of an interval window: `(0xFFFF - S) mod 65536` with `S` the sum of the bytes at
offsets 0..29 (R103). -/
def computedChecksum (w : List Byte) : Nat :=
  (((0xFFFF : Int) - (byteSum (w.take 30) : Int)) % 65536).toNat

/-- The stored checksum of an interval window: the 16-bit little-endian value at offset 30 (R101). -/
def storedChecksum (w : List Byte) : Nat := memRead w 30 2

/-- `chan[k]` of an interval packet: the 16-bit little-endian value at offset `2k` (R104). -/
def intervalChan (w : List Byte) (k : Nat) : Nat := memRead w (2 * k) 2

/-- `chan[k]` of a parity frame: `(V >> (11·(k-1))) & 0x7FF` with `V = MemRead(1, 22)` (R110). -/
def parityChan (w : List Byte) (k : Nat) : Nat := (memRead w 1 22 >>> (11 * (k - 1))) &&& 0x7FF

/-- The ChannelSet of an interval packet: channels 1..14 present, 15 and 16 absent (R104). -/
def intervalChannels (w : List Byte) : ChannelSet :=
  Vector.ofFn fun i => if i.val < 14 then some (BitVec.ofNat 16 (intervalChan w (i.val + 1))) else none

/-- The ChannelSet of a parity frame: all sixteen present, zero-extended (R110). -/
def parityChannels (w : List Byte) : ChannelSet :=
  Vector.ofFn fun i => some (BitVec.ofNat 16 (parityChan w (i.val + 1)))

/-- The first thirty bytes of an interval packet: the header and the fourteen channels (R101). -/
def iframeBody (ch : Vector U16 14) : List Byte :=
  [0x20, 0x40] ++ ch.toList.flatMap fun c => leBytes 2 c.toNat

/-- The 32 bytes of an interval packet with stored checksum `ck` (R101). -/
def iframeBytes (ch : Vector U16 14) (ck : U16) : List Byte := iframeBody ch ++ leBytes 2 ck.toNat

/-- The checksum R103 computes for these fourteen channels. -/
def iframeChecksum (ch : Vector U16 14) : U16 := BitVec.ofNat 16 (computedChecksum (iframeBody ch))

/-- `V`, the 176-bit integer of sixteen 11-bit channels, channel 1 lowest (R110). -/
def packChannels : List U11 → Nat
  | [] => 0
  | c :: cs => c.toNat + 2048 * packChannels cs

/-- The 25 bytes of a parity frame (R108): start byte, 22 data bytes, byte 23, end byte. -/
def pframeBytes (ch : Vector U11 16) (b23 : Byte) : List Byte :=
  [0x0F] ++ leBytes 22 (packChannels ch.toList) ++ [b23, 0x00]

/-- `IFRAME(c1, .., c14)` as R131 writes it: the packet whose stored checksum is the one of R103. -/
def Instr.validPacket (ch : Vector U16 14) : Instr := .iframe ch (iframeChecksum ch)

/-! ### Part 2: requests -/

/-- Where a request arrives: the command port with its 4-bit operation code (R125); the transport, whose bytes
are frames (R70, 46_control_loop.md R360); or the model's own select for the pseudo-operations, which have no
operation code (R131; notes/assumptions/3.md). -/
inductive Port where
  | command
  | transport
  | pseudo
deriving DecidableEq, Repr

/-- One issued operation as bytes. -/
structure Request where
  port : Port
  bytes : List Byte
deriving DecidableEq, Repr

/-- Why bytes are no encoding of an operation. -/
inductive DecodeError where
  /-- the request has no byte at all -/
  | empty
  /-- the bytes end inside an operand -/
  | truncated
  /-- bits 7..4 of the command byte are not zero: the operation code has four bits (R125) -/
  | badOpByte
  /-- a pseudo-operation select above 2 -/
  | badPseudo
  /-- a motor operand that is neither `L = 0` nor `R = 1` (R126) -/
  | badMotor
  /-- a Boolean or present bit that is neither 0 nor 1 -/
  | badFlag
  /-- a variant that is neither absent nor one of the two (R12) -/
  | badVariant
  /-- a `Time` operand below zero (R19) -/
  | negativeTime
  /-- a byte other than zero behind the last operand -/
  | trailingBytes
deriving DecidableEq, Repr

/-- A decoder of one operand: the value and the bytes behind it. -/
abbrev Dec (α : Type) := List Byte → Except DecodeError (α × List Byte)

/-- The decoder that reads nothing and answers `a`. -/
def decPure {α : Type} (a : α) : Dec α := fun bs => .ok (a, bs)

/-- One decoder after another. -/
def decBind {α β : Type} (p : Dec α) (f : α → Dec β) : Dec β := fun bs =>
  match p bs with
  | .error e => .error e
  | .ok (a, r) => f a r

/-- The decoder that refuses by name. -/
def decFail {α : Type} (e : DecodeError) : Dec α := fun _ => .error e

/-- One byte. -/
def decByte : Dec Byte
  | [] => .error .truncated
  | b :: r => .ok (b, r)

/-- A `Nat`: seven bits a byte, low bits first, bit 7 set on every byte but the last. -/
def decNat : Dec Nat
  | [] => .error .truncated
  | b :: r =>
    if b.toNat < 128 then .ok (b.toNat, r)
    else
      match decNat r with
      | .ok (n, r') => .ok (b.toNat - 128 + 128 * n, r')
      | .error e => .error e

/-- An integer from its code: `2n` stands for `n`, `2n+1` for `-(n+1)`. -/
def intOfCode (n : Nat) : Int := if n % 2 = 0 then ((n / 2 : Nat) : Int) else -((n / 2 : Nat) : Int) - 1

/-- The code of an integer. -/
def codeOfInt (z : Int) : Nat := if 0 ≤ z then 2 * z.toNat else 2 * (-z - 1).toNat + 1

/-- An `Int`. -/
def decInt : Dec Int := decBind decNat fun n => decPure (intOfCode n)

/-- A `Q`: the numerator, then the denominator less one. -/
def decQ : Dec Q := decBind decInt fun n => decBind decNat fun d => decPure (mkRat n (d + 1))

/-- A `Time`: a `Q` that is not negative (R19). -/
def decTime : Dec Time := decBind decQ fun q => if timeOk q then decPure q else decFail .negativeTime

/-- A `Bool`. -/
def decBool : Dec Bool := decBind decByte fun b =>
  if b = 0 then decPure false else if b = 1 then decPure true else decFail .badFlag

/-- A `Motor`: `L = 0`, `R = 1` (R126). -/
def decMotor : Dec Motor := decBind decByte fun b =>
  if b = 0 then decPure .L else if b = 1 then decPure .R else decFail .badMotor

/-- An `Option`: a present bit, then the value. -/
def decOption {α : Type} (p : Dec α) : Dec (Option α) := decBind decBool fun b =>
  if b then decBind p fun a => decPure (some a) else decPure none

/-- A 16-bit value, low byte first. -/
def decU16 : Dec U16 := decBind decByte fun lo => decBind decByte fun hi => decPure (BitVec.ofNat 16 (leNat [lo, hi]))

/-- `n` operands of one shape. -/
def decMany {α : Type} (p : Dec α) : Nat → Dec (List α)
  | 0 => decPure []
  | n + 1 => decBind p fun a => decBind (decMany p n) fun as => decPure (a :: as)

/-- A list: its length, then its elements. -/
def decList {α : Type} (p : Dec α) : Dec (List α) := decBind decNat fun n => decMany p n

/-- The ChannelSet of a list of sixteen channel registers, channel 1 first. -/
def channelsOfList (l : List (Option U16)) : ChannelSet := Vector.ofFn fun i => (l[i.val]?).join

/-- A ChannelSet: "sixteen 16-bit values each with a present bit" (R126). -/
def decChannels : Dec ChannelSet := decBind (decMany (decOption decU16) 16) fun l => decPure (channelsOfList l)

/-- An operand for each motor, left first. -/
def decPerMotor {α : Type} (p : Dec α) : Dec (PerMotor α) :=
  decBind p fun a => decBind p fun b => decPure ⟨a, b⟩

/-- A mode name: 0, 1, 2 are the three of the default table. -/
def decMode : Dec Mode := decBind decNat fun n => decPure <|
  match n with
  | 0 => .normal
  | 1 => .safe
  | 2 => .verbose
  | k + 3 => .named k

/-- `VARIANT`, or that it is not given: 0 not given, 1 interval, 2 parity. -/
def decVariant : Dec (Option Variant) := decBind decByte fun b =>
  if b = 0 then decPure none
  else if b = 1 then decPure (some .interval)
  else if b = 2 then decPure (some .parity)
  else decFail .badVariant

/-- `NUM_RND`. -/
def decNumRnd : Dec NumRnd := decBind decNat fun n => decPure <|
  match n with
  | 0 => .exact
  | k + 1 => .custom k

/-- One row of `MODE_TABLE`. -/
def decModeRow : Dec (Int × Mode) := decBind decInt fun v => decBind decMode fun m => decPure (v, m)

/-- The parameters of R13, in the table's order. -/
def decMapper : Dec MapperParams :=
  decBind decInt fun center => decBind decInt fun deadzone => decBind decInt fun fullScale =>
  decBind decInt fun saneLo => decBind decInt fun saneHi => decBind decInt fun modeTol =>
  decBind (decList decModeRow) fun modeTable => decBind decMode fun modeSafe =>
  decBind decMode fun modeVerbose => decBind decBool fun dirInvert =>
  decBind decNat fun chVeer => decBind decNat fun chDir => decBind decNat fun chThrottle =>
  decBind decNat fun chPivot => decBind decNat fun chArm => decBind decNat fun chBrake =>
  decBind decNat fun chMode =>
  decPure { center, deadzone, fullScale, saneLo, saneHi, modeTol, modeTable, modeSafe, modeVerbose, dirInvert,
            chVeer, chDir, chThrottle, chPivot, chArm, chBrake, chMode }

/-- The parameters of R14, in the table's order. -/
def decMotion : Dec MotionParams :=
  decBind decInt fun warmupCount => decBind decInt fun armCount => decBind decInt fun armBand =>
  decBind decInt fun brakeLo => decBind decInt fun brakeHi => decBind decQ fun advInterval =>
  decPure { warmupCount, armCount, armBand, brakeLo, brakeHi, advInterval }

/-- The parameters of R16 for one motor, in the table's order. -/
def decPidInit : Dec PidInit :=
  decBind decQ fun kp0 => decBind decQ fun ki0 => decBind decQ fun kd0 =>
  decBind decQ fun sp0 => decBind decQ fun outMin0 => decBind decQ fun outMax0 =>
  decPure { kp0, ki0, kd0, sp0, outMin0, outMax0 }

/-- The parameters of R17, in the table's order. -/
def decTuner : Dec TunerParams :=
  decBind decQ fun kpStart => decBind decQ fun kpStep => decBind decQ fun kpEnd =>
  decBind decInt fun minCrossings => decBind decQ fun trialDuration => decBind decQ fun sweepBudget =>
  decBind decQ fun znKp => decBind decQ fun znKiNum => decBind decQ fun znKdDen =>
  decPure { kpStart, kpStep, kpEnd, minCrossings, trialDuration, sweepBudget, znKp, znKiNum, znKdDen }

/-- The parameters of R12 to R18 but `VARIANT`. -/
def decParams : Dec Params :=
  decBind decInt fun bufCap => decBind decMapper fun mapper => decBind decMotion fun motion =>
  decBind (decPerMotor decInt) fun ppr => decBind (decPerMotor decPidInit) fun pidInit =>
  decBind decBool fun antiWindup => decBind decTuner fun tuner => decBind decNumRnd fun numRnd =>
  decPure { bufCap, mapper, motion, ppr, pidInit, antiWindup, tuner, numRnd }

/-- An operation that takes no operand and gives the bytes behind its code no meaning, whatever they are. -/
def decIgnoreRest (i : Instr) : Dec Instr := fun _ => .ok (i, [])

/-- The operands behind operation code `op` (R125). -/
def decOperands (op : Nat) : Dec Instr :=
  match op with
  | 0x0 => decBind decVariant fun v => decBind decParams fun p => decPure (.reset v p)
  | 0x1 => decBind decByte fun b => decPure (.fdFeed b)
  | 0x2 => decBind decChannels fun cs => decBind decTime fun t =>
      decBind (decPerMotor (decOption decQ)) fun ovr => decPure (.msmCycle cs t ovr)
  | 0x3 => decBind decMotor fun m => decBind decNat fun d => decBind decQ fun e => decPure (.preSample m d e)
  | 0x4 => decBind decMotor fun m => decBind decNat fun c => decBind decTime fun t => decPure (.preTick m c t)
  | 0x5 => decBind decMotor fun m => decBind decQ fun x => decBind decTime fun t => decPure (.pidUpdate m x t)
  | 0x6 => decBind decMotor fun m => decPure (.pidReset m)
  | 0x7 => decBind decMotor fun m => decBind decQ fun kp => decBind decQ fun ki => decBind decQ fun kd =>
      decPure (.pidSetGains m kp ki kd)
  | 0x8 => decBind decMotor fun m => decBind decQ fun sp => decPure (.pidSetSetpoint m sp)
  | 0x9 => decBind decMotor fun m => decBind decQ fun lo => decBind decQ fun hi => decPure (.pidSetBounds m lo hi)
  | 0xA => decBind decMotor fun m => decBind decQ fun sp => decBind decTime fun t => decPure (.atStart m sp t)
  | 0xB => decBind decQ fun r => decBind decTime fun t => decPure (.atSample r t)
  | 0xC => decPure .atCancel
  | 0xD => decBind decChannels fun cs => decPure (.cmMap cs)
  | 0xE => decBind decMotor fun m => decBind decQ fun r => decPure (.preRpm m r)
  | 0xF => decIgnoreRest .reservedF
  | _ => decFail .badOpByte

/-- The operands behind a pseudo-operation select (notes/assumptions/3.md). -/
def decPseudo (sel : Nat) : Dec Instr :=
  match sel with
  | 0 => decBind (decList decByte) fun bs => decPure (.fdFeedBurst bs)
  | 1 => decBind (decList decByte) fun bs => decBind decTime fun t =>
      decBind (decPerMotor (decOption decQ)) fun ovr => decPure (.loopPoll bs t ovr)
  | 2 => decBind decChannels fun cs => decPure (.cmRange cs)
  | _ => decFail .badPseudo

/-- A decoder run on all the bytes of a request: what stands behind the last operand must be zero. -/
def decWhole (p : Dec Instr) (bs : List Byte) : Except DecodeError Instr :=
  match p bs with
  | .error e => .error e
  | .ok (i, r) => if r.all (· = 0) then .ok i else .error .trailingBytes

/-- The bytes of one delivery of the transport: an interval packet (32 bytes with the header of R101), a parity
frame (25 bytes with the start and end bytes of R108), or any other bytes, which are an `FD_FEED_BURST`. -/
def decTransport (bs : List Byte) : Instr :=
  if bs.length = 32 ∧ bs.take 2 = [0x20, 0x40] then
    .iframe (Vector.ofFn fun i => BitVec.ofNat 16 (intervalChan bs (i.val + 1))) (BitVec.ofNat 16 (storedChecksum bs))
  else if bs.length = 25 ∧ bs.take 1 = [0x0F] ∧ bs.drop 24 = [0x00] then
    .pframe (Vector.ofFn fun i => BitVec.ofNat 11 (parityChan bs (i.val + 1))) (byteAt bs 23)
  else .fdFeedBurst bs

/-- The operation a request stands for, or the reason why it is none. Total. -/
def decodeRequest (q : Request) : Except DecodeError Instr :=
  match q.port, q.bytes with
  | .command, [] => .error .empty
  | .command, b :: rest => decWhole (decOperands b.toNat) rest
  | .pseudo, [] => .error .empty
  | .pseudo, b :: rest => decWhole (decPseudo b.toNat) rest
  | .transport, bs => .ok (decTransport bs)

/-! ### Part 3: the encoder -/

/-- `encNat` with a bound on the number of its steps. -/
def encNatUpTo : Nat → Nat → List Byte
  | 0, n => [BitVec.ofNat 8 n]
  | f + 1, n => if n < 128 then [BitVec.ofNat 8 n] else BitVec.ofNat 8 (128 + n % 128) :: encNatUpTo f (n / 128)

/-- The bytes of a `Nat`. -/
def encNat (n : Nat) : List Byte := encNatUpTo n n

/-- The bytes of an `Int`. -/
def encInt (z : Int) : List Byte := encNat (codeOfInt z)

/-- The bytes of a `Q`. -/
def encQ (q : Q) : List Byte := encInt q.num ++ encNat (q.den - 1)

/-- The byte of a `Bool`. -/
def encBool (b : Bool) : List Byte := if b then [1] else [0]

/-- The byte of a `Motor` (R126). -/
def encMotor : Motor → List Byte
  | .L => [0]
  | .R => [1]

/-- The bytes of an `Option`. -/
def encOption {α : Type} (e : α → List Byte) : Option α → List Byte
  | none => encBool false
  | some a => encBool true ++ e a

/-- The bytes of a 16-bit value. -/
def encU16 (v : U16) : List Byte := leBytes 2 v.toNat

/-- The bytes of a list. -/
def encList {α : Type} (e : α → List Byte) (l : List α) : List Byte := encNat l.length ++ l.flatMap e

/-- The bytes of a ChannelSet. -/
def encChannels (cs : ChannelSet) : List Byte := cs.toList.flatMap (encOption encU16)

/-- The bytes of an operand for each motor. -/
def encPerMotor {α : Type} (e : α → List Byte) (p : PerMotor α) : List Byte := e p.l ++ e p.r

/-- The bytes of a mode name. -/
def encMode : Mode → List Byte
  | .normal => encNat 0
  | .safe => encNat 1
  | .verbose => encNat 2
  | .named k => encNat (k + 3)

/-- The byte of `VARIANT`. -/
def encVariant : Option Variant → List Byte
  | none => [0]
  | some .interval => [1]
  | some .parity => [2]

/-- The bytes of `NUM_RND`. -/
def encNumRnd : NumRnd → List Byte
  | .exact => encNat 0
  | .custom k => encNat (k + 1)

/-- The bytes of one row of `MODE_TABLE`. -/
def encModeRow (r : Int × Mode) : List Byte := encInt r.1 ++ encMode r.2

/-- The bytes of the parameters of R13. -/
def encMapper (p : MapperParams) : List Byte :=
  encInt p.center ++ encInt p.deadzone ++ encInt p.fullScale ++ encInt p.saneLo ++ encInt p.saneHi ++
  encInt p.modeTol ++ encList encModeRow p.modeTable ++ encMode p.modeSafe ++ encMode p.modeVerbose ++
  encBool p.dirInvert ++ encNat p.chVeer ++ encNat p.chDir ++ encNat p.chThrottle ++ encNat p.chPivot ++
  encNat p.chArm ++ encNat p.chBrake ++ encNat p.chMode

/-- The bytes of the parameters of R14. -/
def encMotion (p : MotionParams) : List Byte :=
  encInt p.warmupCount ++ encInt p.armCount ++ encInt p.armBand ++ encInt p.brakeLo ++ encInt p.brakeHi ++
  encQ p.advInterval

/-- The bytes of the parameters of R16 for one motor. -/
def encPidInit (p : PidInit) : List Byte :=
  encQ p.kp0 ++ encQ p.ki0 ++ encQ p.kd0 ++ encQ p.sp0 ++ encQ p.outMin0 ++ encQ p.outMax0

/-- The bytes of the parameters of R17. -/
def encTuner (p : TunerParams) : List Byte :=
  encQ p.kpStart ++ encQ p.kpStep ++ encQ p.kpEnd ++ encInt p.minCrossings ++ encQ p.trialDuration ++
  encQ p.sweepBudget ++ encQ p.znKp ++ encQ p.znKiNum ++ encQ p.znKdDen

/-- The bytes of the parameters of R12 to R18 but `VARIANT`. -/
def encParams (p : Params) : List Byte :=
  encInt p.bufCap ++ encMapper p.mapper ++ encMotion p.motion ++ encPerMotor encInt p.ppr ++
  encPerMotor encPidInit p.pidInit ++ encBool p.antiWindup ++ encTuner p.tuner ++ encNumRnd p.numRnd

/-- The request that stands for an operation: a frame as its bytes on the transport (R101, R108), an operation
as its code of R125 and its operands, a pseudo-operation behind the model's select. -/
def encode : Instr → Request
  | .iframe ch ck => ⟨.transport, iframeBytes ch ck⟩
  | .pframe ch b23 => ⟨.transport, pframeBytes ch b23⟩
  | .reset v p => ⟨.command, 0x0 :: (encVariant v ++ encParams p)⟩
  | .fdFeed b => ⟨.command, [0x1, b]⟩
  | .msmCycle cs t ovr => ⟨.command, 0x2 :: (encChannels cs ++ encQ t ++ encPerMotor (encOption encQ) ovr)⟩
  | .preSample m d e => ⟨.command, 0x3 :: (encMotor m ++ encNat d ++ encQ e)⟩
  | .preTick m c t => ⟨.command, 0x4 :: (encMotor m ++ encNat c ++ encQ t)⟩
  | .pidUpdate m x t => ⟨.command, 0x5 :: (encMotor m ++ encQ x ++ encQ t)⟩
  | .pidReset m => ⟨.command, 0x6 :: encMotor m⟩
  | .pidSetGains m kp ki kd => ⟨.command, 0x7 :: (encMotor m ++ encQ kp ++ encQ ki ++ encQ kd)⟩
  | .pidSetSetpoint m sp => ⟨.command, 0x8 :: (encMotor m ++ encQ sp)⟩
  | .pidSetBounds m lo hi => ⟨.command, 0x9 :: (encMotor m ++ encQ lo ++ encQ hi)⟩
  | .atStart m sp t => ⟨.command, 0xA :: (encMotor m ++ encQ sp ++ encQ t)⟩
  | .atSample r t => ⟨.command, 0xB :: (encQ r ++ encQ t)⟩
  | .atCancel => ⟨.command, [0xC]⟩
  | .cmMap cs => ⟨.command, 0xD :: encChannels cs⟩
  | .preRpm m r => ⟨.command, 0xE :: (encMotor m ++ encQ r)⟩
  | .reservedF => ⟨.command, [0xF]⟩
  | .fdFeedBurst bs => ⟨.pseudo, 0 :: encList (fun b => [b]) bs⟩
  | .loopPoll bs t ovr =>
      ⟨.pseudo, 1 :: (encList (fun b => [b]) bs ++ encQ t ++ encPerMotor (encOption encQ) ovr)⟩
  | .cmRange cs => ⟨.pseudo, 2 :: encChannels cs⟩

/-! ### Part 4: the words of spec/opcode_table.json -/

/-- The zero operand bytes put behind an operation code: more than any operation reads when all are zero. -/
def zeroOperands : List Byte := List.replicate 128 0

/-- The request for a table word of `nbits` bits, bit 0 the least significant bit of the first byte. The frame
rows have 256 and 200 bits and come over the transport; every other row is an operation code with its operand
bytes zero. -/
def tableRequest (nbits w : Nat) : Request :=
  let bs := leBytes ((nbits + 7) / 8) w
  if nbits = 256 ∨ nbits = 200 then ⟨.transport, bs⟩ else ⟨.command, bs ++ zeroOperands⟩

/-- The operation the decoder reads from a table word, `none` where it refuses. -/
def decodeTableWord (nbits w : Nat) : Option Instr :=
  match decodeRequest (tableRequest nbits w) with
  | .ok i => some i
  | .error _ => none

end Sys2Proof
end

