-- ==== Sys2Proof/Machine/State.lean ====
section
/-! DEFINITION. The state of RCB as plain data: every register of 10_state.md (R33 to R58), the reset values of
R60, and the model's own fields (the issued operations not yet taken, and what the latest step put out). -/

namespace Sys2Proof.Machine

/-! ### Value types -/

/-- `Intent.direction` (R38); the document's example calls `idle` "none" (90_conflicts.md C2). -/
inductive Heading where
  | forward
  | reverse
  | idle
deriving DecidableEq, Repr

/-- `Intent.pivot` and `Intent.veer` (R38). -/
inductive Turn where
  | left
  | right
  | none
deriving DecidableEq, Repr

/-- `Intent` (R38). -/
structure Intent where
  throttle : Q
  direction : Heading
  pivot : Turn
  veer : Turn
  brake : Bool
  mode : Mode
deriving DecidableEq, Repr

/-- `arm`, the ArmState (R40). -/
inductive ArmState where
  | warmup
  | idleUnarmed
  | armed
deriving DecidableEq, Repr

/-- The direction of a MotorCommand (R45). -/
inductive Spin where
  | forward
  | reverse
deriving DecidableEq, Repr

/-- `MotorCommand` (R45). -/
structure MotorCommand where
  speed : Q
  direction : Spin
  brake : Bool
deriving DecidableEq, Repr

/-- The actuation shadow registers of one motor (R52). -/
structure ActShadow where
  duty : Option Q
  dir : Option Spin
  brake : Option Bool
deriving DecidableEq, Repr

/-- The PID registers of one motor (R46). -/
structure PidRegs where
  kp : Q
  ki : Q
  kd : Q
  sp : Q
  outMin : Q
  outMax : Q
  integ : Q
  ePrev : Q
  tPrev : Option Time
  lastU : Q
  lastOut : Q
deriving DecidableEq, Repr

/-- The estimator registers of one motor (R47). -/
structure PreRegs where
  rate : Q
  lastCount : Option Nat
  lastT : Option Time
deriving DecidableEq, Repr

/-- `at_phase` (R48). -/
inductive AtPhase where
  | idle
  | running
deriving DecidableEq, Repr

/-- A sign, -1, 0 or +1 (R50, 00_scope.md R21). -/
inductive Sgn where
  | neg
  | zero
  | pos
deriving DecidableEq, Repr

/-- `at_saved` (R51). -/
structure SavedGains where
  kp : Q
  ki : Q
  kd : Q
  sp : Q
deriving DecidableEq, Repr

/-- `TuneResult` (R51). -/
inductive TuneResult where
  | success (ku pu kp ki kd : Q)
  | failure
  | aborted
deriving DecidableEq, Repr

/-- The AutoTuner registers `at_*` (R48 to R51, R53). -/
structure TunerRegs where
  phase : AtPhase
  motor : Motor
  sp : Q
  k : Nat
  trialStart : Time
  sweepStart : Time
  crossCnt : Nat
  c1 : Option Time
  c2 : Option Time
  c3 : Option Time
  lastSign : Sgn
  saved : SavedGains
  result : Option TuneResult
  cancel : Bool
deriving DecidableEq, Repr

/-- The roles `CM_RANGE` reports (41_channel_mapper.md R191). -/
inductive Role where
  | veer
  | dir
  | throttle
  | pivot
  | arm
  | brake
deriving DecidableEq, Repr

/-- Why the FrameDecoder rejected a candidate (40_frame_decoder.md R149). -/
inductive RejectCause where
  | cks
  | endByte
deriving DecidableEq, Repr

/-- One output of an operation (30_encoding.md R128; events by 60_exceptions.md R380). -/
inductive Output where
  | frame (cs : ChannelSet)
  | fdReject (cause : RejectCause)
  | setDuty (m : Motor) (f : Q)
  | setDirection (m : Motor) (fwd : Bool)
  | setBrake (m : Motor) (engaged : Bool)
  | evIntent (it : Intent)
  | evBrake (b : Bool)
  | evArm (src dst : ArmState)
  | evOscDetected (m : Motor) (ku pu : Q)
  | evTuneResult (m : Motor) (res : TuneResult)
  | evRange (roles : List Role)
  | evNotArmed (t : Time)
deriving DecidableEq, Repr

/-- The event codes of R380; the other outputs are no events (R382). -/
def Output.eventCode : Output → Option Nat
  | .evIntent .. => some 1
  | .evBrake .. => some 2
  | .evArm .. => some 3
  | .evOscDetected .. => some 4
  | .evTuneResult .. => some 5
  | .evRange .. => some 6
  | .evNotArmed .. => some 7
  | .frame .. => none
  | .fdReject .. => none
  | .setDuty .. => none
  | .setDirection .. => none
  | .setBrake .. => none

/-- An error condition with its payload (60_exceptions.md R370). -/
inductive ErrorCond where
  | frameError (cause : RejectCause)
  | rangeError (roles : List Role)
  | notArmedError
  | tuningFailure
  | sampleTimingError
deriving DecidableEq, Repr

/-- The error codes of R370. -/
def ErrorCond.code : ErrorCond → Nat
  | .frameError .. => 1
  | .rangeError .. => 2
  | .notArmedError => 3
  | .tuningFailure => 4
  | .sampleTimingError => 5

/-- A value an operation returns. -/
inductive Result where
  | number (v : Q)
  | intent (it : Intent)
  | roles (rs : List Role)
deriving DecidableEq, Repr

/-! ### The state -/

/-- The context record of RCB (R30): no state exists outside it. -/
structure State where
  /-- the configuration in force (70_reset_and_hazards.md R420) -/
  cfg : Cfg
  /-- the FrameDecoder's byte buffer, offset 0 first (R33) -/
  buf : List Byte
  /-- R35 -/
  lastGood : Option ChannelSet
  /-- R39 -/
  prevIntent : Option Intent
  /-- R40 -/
  arm : ArmState
  /-- R41 -/
  warmCnt : Nat
  /-- R42 -/
  lowCnt : Nat
  /-- R43 -/
  brake : Bool
  /-- R44 -/
  lastAdv : Option Time
  /-- R45 -/
  cmd : PerMotor MotorCommand
  /-- R52 -/
  act : PerMotor ActShadow
  /-- R46 -/
  pid : PerMotor PidRegs
  /-- R47 -/
  pre : PerMotor PreRegs
  /-- R48 to R51, R53 -/
  tuner : TunerRegs
  /-- R58 -/
  tuneOwner : Option Motor
  /-- the model's own: operations issued and not yet taken, oldest first (notes/assumptions/1.md) -/
  inbox : List Request
  /-- the model's own: what the latest step emitted, in order (notes/assumptions/6.md) -/
  outputs : List Output
  /-- the model's own: the error conditions the latest step raised, in order (notes/assumptions/6.md) -/
  errors : List ErrorCond
  /-- the model's own: the value the latest operation returned (notes/assumptions/6.md) -/
  result : Option Result
deriving DecidableEq, Repr

/-- What stops the machine with a fault: nothing. "No condition in this core is fatal to the process"
(60_exceptions.md R376), and every operation is total (46_control_loop.md R362), so no meaning can raise a
fault; safe, since the spec gives none. -/
inductive Fault where
deriving DecidableEq, Repr

/-- Why a step has no meaning. -/
inductive Refusal where
  /-- An instruction without a meaning: raised by an arm of `exec`; no arm does. Safe. -/
  | notModelled (mnemonic : String)
  /-- The oldest request is no encoding of an operation: raised by `step`. The spec fixes no operand layout
  (30_encoding.md R126), so such bytes stand for nothing it describes. Safe (notes/assumptions/4.md). -/
  | badRequest (e : DecodeError)
deriving DecidableEq, Repr

/-! ### Reset -/

/-- `MotorCommand` at reset: speed 0, forward, brake engaged (R60). -/
def MotorCommand.atReset : MotorCommand := ⟨0, .forward, true⟩

/-- The actuation shadow at reset: nothing has been sent (R60). -/
def ActShadow.atReset : ActShadow := ⟨none, none, none⟩

/-- The PID registers at reset (R60); `last_out` is `clamp(0, OUT_MIN0, OUT_MAX0)`. -/
def PidRegs.atReset (p : PidInit) : PidRegs where
  kp := p.kp0
  ki := p.ki0
  kd := p.kd0
  sp := p.sp0
  outMin := p.outMin0
  outMax := p.outMax0
  integ := 0
  ePrev := 0
  tPrev := none
  lastU := 0
  lastOut := if 0 < p.outMin0 then p.outMin0 else if p.outMax0 < 0 then p.outMax0 else 0

/-- The estimator registers at reset (R60). -/
def PreRegs.atReset : PreRegs := ⟨0, none, none⟩

/-- The AutoTuner registers at reset (R60). -/
def TunerRegs.atReset : TunerRegs where
  phase := .idle
  motor := .L
  sp := 0
  k := 0
  trialStart := 0
  sweepStart := 0
  crossCnt := 0
  c1 := none
  c2 := none
  c3 := none
  lastSign := .zero
  saved := ⟨0, 0, 0, 0⟩
  result := none
  cancel := false

/-- Every register at its reset value under the configuration `cfg` (R60); no issued operation and no output. -/
def State.resetWith (cfg : Cfg) : State where
  cfg := cfg
  buf := []
  lastGood := none
  prevIntent := none
  arm := if cfg.par.motion.warmupCount > 0 then .warmup else .idleUnarmed
  warmCnt := 0
  lowCnt := 0
  brake := true
  lastAdv := none
  cmd := ⟨.atReset, .atReset⟩
  act := ⟨.atReset, .atReset⟩
  pid := ⟨.atReset cfg.par.pidInit.l, .atReset cfg.par.pidInit.r⟩
  pre := ⟨.atReset, .atReset⟩
  tuner := .atReset
  tuneOwner := none
  inbox := []
  outputs := []
  errors := []
  result := none

/-- The machine right after reset. "A model's initial state is the state after `RESET cfg`"
(70_reset_and_hazards.md R421); the configuration is the default one (notes/assumptions/8.md). -/
def State.reset : State := State.resetWith Cfg.default

end Sys2Proof.Machine
end

