-- ==== Sys2Proof/Machine/Ops.lean ====
section
/-! DEFINITION. The named operations on the state that the meanings share: the byte buffer, the outputs, raising
an error condition, returning a value, the per-motor registers, and the actuation calls. -/

namespace Sys2Proof.Machine

/-! ### The byte buffer (20_memory.md) -/

/-- The form every buffer of a run has: at most `BUF_CAP` bytes (R33, R81). The buffer lists exactly the bytes
of its address space, offset by offset (R70), so equal buffers are equal data (notes/assumptions/11.md). -/
abbrev Memory.wf (cap : Int) (buf : List Byte) : Prop := (buf.length : Int) ≤ cap

/-- The buffer as cells: byte `i` at address `i` (R70). -/
def Memory.cells (buf : List Byte) : List Host.Cell := buf.zipIdx.map fun p => (p.2, p.1)

/-- One byte of the buffer; an offset at or past `|buf|` does not exist (R70). -/
def Memory.read (buf : List Byte) (a : Nat) : Option Byte := buf[a]?

/-- `BufAppend(b)` (00_scope.md R21). -/
def bufAppend (buf : List Byte) (b : Byte) : List Byte := buf ++ [b]

/-- `BufDrop(n)` (00_scope.md R21). -/
def bufDrop (buf : List Byte) (n : Nat) : List Byte := buf.drop n

/-- "truncate from the front if buffer exceeds the cap" (R81). -/
def bufTruncate (cap : Int) (buf : List Byte) : List Byte :=
  if (buf.length : Int) > cap then bufDrop buf ((buf.length : Int) - cap).toNat else buf

/-! ### Outputs, errors, results -/

/-- `emit X(args)`: appends to the operation's output list (00_scope.md R21). -/
def State.emit (s : State) (o : Output) : State := { s with outputs := s.outputs ++ [o] }

/-- `raise <Error>(info)`: taking an error condition. It "never transfers control" and "writes no cause register"
(00_scope.md R21, 60_exceptions.md R370, R386): its whole effect is that the condition is recorded; the recovery
is the lines that follow it in the operation. There is no return from one (R386). -/
def State.raise (s : State) (e : ErrorCond) : State := { s with errors := s.errors ++ [e] }

/-- `return v`. -/
def State.ret (s : State) (v : Result) : State := { s with result := some v }

/-! ### Per-motor registers -/

/-- `cmd[m] <- c`. -/
def State.setCmd (s : State) (m : Motor) (c : MotorCommand) : State := { s with cmd := s.cmd.set m c }

/-- `act[m] <- a`. -/
def State.setAct (s : State) (m : Motor) (a : ActShadow) : State := { s with act := s.act.set m a }

/-- `pid[m] <- p`. -/
def State.setPid (s : State) (m : Motor) (p : PidRegs) : State := { s with pid := s.pid.set m p }

/-- `pre[m] <- p`. -/
def State.setPre (s : State) (m : Motor) (p : PreRegs) : State := { s with pre := s.pre.set m p }

/-- The AutoTuner registers replaced. -/
def State.setTuner (s : State) (t : TunerRegs) : State := { s with tuner := t }

/-! ### Actuation calls (42_motion_state_machine.md R226): the call, and its shadow (10_state.md R52) -/

/-- `emit set_direction(m, d = forward); act[m].dir <- some d`. -/
def sendDirection (m : Motor) (d : Spin) (s : State) : State :=
  (s.emit (.setDirection m (d == .forward))).setAct m { s.act.get m with dir := some d }

/-- `emit set_duty(m, f); act[m].duty <- some f`. -/
def sendDuty (m : Motor) (f : Q) (s : State) : State :=
  (s.emit (.setDuty m f)).setAct m { s.act.get m with duty := some f }

/-- `emit set_brake(m, b); act[m].brake <- some b`. -/
def sendBrake (m : Motor) (b : Bool) (s : State) : State :=
  (s.emit (.setBrake m b)).setAct m { s.act.get m with brake := some b }

/-- `set_brake` only when it differs from the last value sent to the motor (R221, R226). -/
def sendBrakeIfChanged (m : Motor) (b : Bool) (s : State) : State :=
  if (s.act.get m).brake = some b then s else sendBrake m b s

end Sys2Proof.Machine
end

