-- ==== Sys2Proof/Machine/Operands.lean ====
section
/-! DEFINITION. How operands are read and compared: the arithmetic primitives of 00_scope.md R21, the rounding
hook, the readings of a channel (41_channel_mapper.md R181 to R183), and `valid_cfg`
(70_reset_and_hazards.md R431). -/

namespace Sys2Proof.Machine

/-- `clamp(v, lo, hi)` (R21): `lo` if `v < lo`, `hi` if `v > hi`, else `v`. -/
def clamp (v lo hi : Q) : Q := if v < lo then lo else if v > hi then hi else v

/-- `|v|` (R21). -/
def absQ (v : Q) : Q := if v < 0 then -v else v

/-- `sign(v)` (R21). -/
def sign (v : Q) : Sgn := if v < 0 then .neg else if v = 0 then .zero else .pos

/-- `rnd(v)` is `NUM_RND(v)` (R18). -/
def rnd (cfg : Cfg) (v : Q) : Q :=
  match cfg.par.numRnd with
  | .exact => v
  | .custom id => Config.customRnd id v

/-- `ch[k]`, the `k`-th channel, `k` in 1..16 (R21). -/
def chan (cs : ChannelSet) (k : Nat) : Option U16 := if k = 0 then none else (cs[k - 1]?).join

/-- `raw(cs, c)` as an integer, `none` when the channel is absent (R181). -/
def raw (cs : ChannelSet) (c : Nat) : Option Int := (chan cs c).map fun v => (v.toNat : Int)

/-- `in_band(v)`: `SANE_LO ≤ v ≤ SANE_HI` (R181). -/
def inBand (p : MapperParams) (v : Int) : Bool := decide (p.saneLo ≤ v) && decide (v ≤ p.saneHi)

/-- `in_band` of a channel reading: an absent channel "reads as not `in_band`" (R181). -/
def readingInBand (p : MapperParams) : Option Int → Bool
  | none => false
  | some v => inBand p v

/-- `normalize(v)` (R182). -/
def normalizeChannel (p : MapperParams) (v : Int) : Q :=
  if inBand p v then clamp (((v - p.center : Int) : Q) / (p.fullScale : Q)) (-1) 1 else 0

/-- The three-state reading of a channel (R183). -/
inductive Tri where
  | negative
  | neutral
  | positive
deriving DecidableEq, Repr

/-- `tri(v)` (R183). -/
def tri (p : MapperParams) (v : Int) : Tri :=
  if !inBand p v then .neutral
  else if v - p.center > p.deadzone then .positive
  else if v - p.center < -p.deadzone then .negative
  else .neutral

/-- `tri` of a channel reading; an absent channel is out of band, so neutral (R181, R183). -/
def readingTri (p : MapperParams) : Option Int → Tri
  | none => .neutral
  | some v => tri p v

/-- The seven role channel indices (R13). -/
def roleChannels (p : MapperParams) : List Nat :=
  [p.chVeer, p.chDir, p.chThrottle, p.chPivot, p.chArm, p.chBrake, p.chMode]

/-- V2 of R431. -/
def cfgBufOk (c : Cfg) : Bool := decide ((frameLen c.variant : Int) ≤ c.par.bufCap)

/-- V3, V4, V5 and V6 of R431; that the mode names are mode names and that the table is finite is in the types. -/
def cfgScaleOk (p : MapperParams) : Bool :=
  decide (0 < p.fullScale) && decide (0 ≤ p.deadzone) && decide (p.deadzone < p.fullScale) &&
  decide (p.saneLo ≤ p.saneHi) && decide (0 ≤ p.modeTol)

/-- V7 and V8 of R431. -/
def cfgRolesOk (c : Cfg) : Bool :=
  (roleChannels c.par.mapper).all (fun k => decide (1 ≤ k) && decide (k ≤ channelCount c.variant)) &&
  decide (roleChannels c.par.mapper).Nodup

/-- V9, V10 and V11 of R431. -/
def cfgMotionOk (p : MotionParams) : Bool :=
  decide (0 ≤ p.warmupCount) && decide (1 ≤ p.armCount) && decide (0 ≤ p.armBand) &&
  decide (p.brakeLo ≤ p.brakeHi) && decide (0 < p.advInterval)

/-- V12 and V13 of R431. -/
def cfgMotorOk (p : Params) : Bool :=
  decide (0 < p.ppr.l) && decide (0 < p.ppr.r) &&
  decide (p.pidInit.l.outMin0 ≤ p.pidInit.l.outMax0) && decide (p.pidInit.r.outMin0 ≤ p.pidInit.r.outMax0)

/-- V14 to V17 of R431. -/
def cfgTunerOk (p : TunerParams) : Bool :=
  decide (0 < p.kpStep) && decide (p.kpStart ≤ p.kpEnd) && decide (3 ≤ p.minCrossings) &&
  decide (0 < p.trialDuration) && decide (0 < p.sweepBudget) && decide (p.znKdDen ≠ 0)

/-- `valid_cfg(cfg)`: V2 to V17 of R431. V1 is `variant ≠ none` of the operand of `RESET`. -/
def validCfg (c : Cfg) : Bool :=
  cfgBufOk c && cfgScaleOk c.par.mapper && cfgRolesOk c && cfgMotionOk c.par.motion && cfgMotorOk c.par &&
  cfgTunerOk c.par.tuner

end Sys2Proof.Machine
end

