-- ==== Sys2Proof/Machine/PidController.lean ====
section
/-! DEFINITION. The PIDController (44_pid_controller.md): the update and the register writes as functions of one
motor's registers, and the host's operations, each refused on the motor the tuner owns (R298). -/

namespace Sys2Proof.Machine

/-- `dt` when there is one (R282, R283): a previous sample time, and `t` later than it. -/
def pidDt (p : PidRegs) (t : Time) : Option Q :=
  match p.tPrev with
  | some tp => if t - tp > 0 then some (t - tp) else none
  | none => none

/-- `i_new` (R283, R284). -/
def pidInew (cfg : Cfg) (p : PidRegs) (e : Q) (dt : Option Q) : Q :=
  match dt with
  | some d => rnd cfg (p.integ + e * d)
  | none => p.integ

/-- `d` (R283, R285). -/
def pidDeriv (p : PidRegs) (e : Q) (dt : Option Q) : Q :=
  match dt with
  | some d => (e - p.ePrev) / d
  | none => 0

/-- `PID_UPDATE` on the registers of one motor (R282); what it returns is the new `last_out`. -/
def pidStep (cfg : Cfg) (meas : Q) (t : Time) (p : PidRegs) : PidRegs :=
  let e := p.sp - meas
  let dt := pidDt p t
  let iNew := pidInew cfg p e dt
  let u := rnd cfg (p.kp * e + p.ki * iNew + p.kd * pidDeriv p e dt)
  let saturated := decide (u < p.outMin) || decide (u > p.outMax)
  { p with
    integ := if cfg.par.antiWindup && saturated then p.integ else iNew
    ePrev := e
    tPrev := some t
    lastU := u
    lastOut := clamp u p.outMin p.outMax }

/-- `PID_RESET` on the registers of one motor (R290). -/
def pidClear (p : PidRegs) : PidRegs := { p with integ := 0, ePrev := 0, tPrev := none }

/-- A gain write, which resets (R292). -/
def pidGains (kp ki kd : Q) (p : PidRegs) : PidRegs := pidClear { p with kp := kp, ki := ki, kd := kd }

/-- `PID_UPDATE(m, meas, t)` on the state, as the host and the tuner both use it (R282). -/
def pidUpdate (m : Motor) (meas : Q) (t : Time) (s : State) : State :=
  s.setPid m (pidStep s.cfg meas t (s.pid.get m))

/-- `PID_UPDATE m, meas, t` (R282); on the tuner's motor "no state changes, and `PID_UPDATE` returns
`pid[m].last_out`" (R298). -/
def execPidUpdate (m : Motor) (meas : Q) (t : Time) (s : State) : Host.Outcome State Fault Refusal :=
  if s.tuneOwner = some m then .next (s.ret (.number (s.pid.get m).lastOut))
  else
    let s1 := pidUpdate m meas t s
    .next (s1.ret (.number (s1.pid.get m).lastOut))

/-- `PID_RESET m` (R290, R298). -/
def execPidReset (m : Motor) (s : State) : Host.Outcome State Fault Refusal :=
  if s.tuneOwner = some m then .next s else .next (s.setPid m (pidClear (s.pid.get m)))

/-- `PID_SET_GAINS m, kp, ki, kd` (R292, R298). -/
def execPidSetGains (m : Motor) (kp ki kd : Q) (s : State) : Host.Outcome State Fault Refusal :=
  if s.tuneOwner = some m then .next s else .next (s.setPid m (pidGains kp ki kd (s.pid.get m)))

/-- `PID_SET_SETPOINT m, sp` (R294, R298). -/
def execPidSetSetpoint (m : Motor) (sp : Q) (s : State) : Host.Outcome State Fault Refusal :=
  if s.tuneOwner = some m then .next s else .next (s.setPid m { s.pid.get m with sp := sp })

/-- `PID_SET_BOUNDS m, lo, hi` (R296, R298); "with `lo > hi` the operation is refused". -/
def execPidSetBounds (m : Motor) (lo hi : Q) (s : State) : Host.Outcome State Fault Refusal :=
  if s.tuneOwner = some m ∨ lo > hi then .next s
  else .next (s.setPid m { s.pid.get m with outMin := lo, outMax := hi })

end Sys2Proof.Machine
end

