-- ==== Sys2Proof/Machine/AutoTuner.lean ====
section
/-! DEFINITION. The AutoTuner (45_auto_tuner.md): `AT_START`, `AT_SAMPLE`, `AT_CANCEL` and the internal functions of
its pseudocode. -/

namespace Sys2Proof.Machine

/-- `KP_START + k · KP_STEP`, the gain of trial `k` (10_state.md R49, R313). -/
def trialGain (cfg : Cfg) (k : Nat) : Q := cfg.par.tuner.kpStart + (k : Q) * cfg.par.tuner.kpStep

/-- The PID registers a trial begins with (R313). -/
def trialPid (cfg : Cfg) (k : Nat) (sp : Q) (p : PidRegs) : PidRegs :=
  pidClear { p with kp := trialGain cfg k, ki := 0, kd := 0, sp := sp }

/-- The tuner registers a trial begins with (R313). -/
def trialRegs (t : Time) (r : TunerRegs) : TunerRegs :=
  { r with trialStart := t, crossCnt := 0, c1 := none, c2 := none, c3 := none, lastSign := .zero }

/-- `begin_trial(t)` (R313), `m = at_motor`. -/
def beginTrial (t : Time) (s : State) : State :=
  (s.setPid s.tuner.motor (trialPid s.cfg s.tuner.k s.tuner.sp (s.pid.get s.tuner.motor))).setTuner
    (trialRegs t s.tuner)

/-- Whether a sample at `t` is later than the last recorded crossing (R318). -/
def laterThanCrossing (c1 : Option Time) (t : Time) : Bool :=
  match c1 with
  | none => true
  | some c => decide (t > c)

/-- `record_crossing(e, t)` (R318). -/
def recordCrossing (e : Q) (t : Time) (r : TunerRegs) : TunerRegs :=
  if sign e = .zero then r
  else if sign e ≠ r.lastSign ∧ laterThanCrossing r.c1 t = true then
    { r with c3 := r.c2, c2 := r.c1, c1 := some t, crossCnt := r.crossCnt + 1, lastSign := sign e }
  else { r with lastSign := sign e }

/-- `success_result()` (R324). Without the last and the third-to-last crossing there is no period, and the tuner
must "never fabricate a period from fewer than required crossings" (R326): then the result is a failure
(notes/assumptions/15.md). -/
def successResult (cfg : Cfg) (kp : Q) (r : TunerRegs) : TuneResult :=
  match r.c1, r.c3 with
  | some a, some c =>
    let pu := a - c
    let kp' := rnd cfg (cfg.par.tuner.znKp * kp)
    .success kp pu kp' (rnd cfg (cfg.par.tuner.znKiNum * kp' / pu)) (rnd cfg (kp' * pu / cfg.par.tuner.znKdDen))
  | _, _ => .failure

/-- The PID registers `finish(res)` leaves (R328): the tuned gains on success, the saved ones otherwise, the saved
setpoint, and a reset. -/
def finishPid (res : TuneResult) (sv : SavedGains) (p : PidRegs) : PidRegs :=
  pidClear <|
    match res with
    | .success _ _ kp ki kd => { p with kp := kp, ki := ki, kd := kd, sp := sv.sp }
    | .failure => { p with kp := sv.kp, ki := sv.ki, kd := sv.kd, sp := sv.sp }
    | .aborted => { p with kp := sv.kp, ki := sv.ki, kd := sv.kd, sp := sv.sp }

/-- What `finish(res)` announces besides the result: the oscillation on success, `TuningFailure` on failure (R328). -/
def finishNote (m : Motor) (res : TuneResult) (s : State) : State :=
  match res with
  | .success ku pu _ _ _ => s.emit (.evOscDetected m ku pu)
  | .failure => s.raise .tuningFailure
  | .aborted => s

/-- The tuner registers `finish(res)` leaves (R328). -/
def finishRegs (res : TuneResult) (r : TunerRegs) : TunerRegs :=
  { r with result := some res, cancel := false, phase := .idle }

/-- `finish(res)` (R328), `m = at_motor`; "the only way out of `AT_RUNNING`". -/
def finish (res : TuneResult) (s : State) : State :=
  let m := s.tuner.motor
  let s1 := sendBrake m true (sendDuty m 0 (s.setCmd m ⟨0, .forward, true⟩))
  let s2 := (finishNote m res s1).setPid m (finishPid res s.tuner.saved (s.pid.get m))
  State.emit { s2.setTuner (finishRegs res s.tuner) with tuneOwner := none } (.evTuneResult m res)

/-- `AT_START(m, sp, t)` on an idle tuner (R310). -/
def startTuner (m : Motor) (sp : Q) (t : Time) (s : State) : State :=
  let p := s.pid.get m
  let r : TunerRegs := { s.tuner with
    saved := ⟨p.kp, p.ki, p.kd, p.sp⟩, motor := m, sp := sp, result := none, cancel := false,
    phase := .running, k := 0, sweepStart := t }
  let s1 := beginTrial t { s.setTuner r with tuneOwner := some m }
  sendBrake m false (sendDuty m 0 (sendDirection m .forward (s1.setCmd m ⟨0, .forward, false⟩)))

/-- The sample itself (R314, first half): the PID step, the duty limited to [0, 1] (R316), the crossing. -/
def tunerSample (rate : Q) (t : Time) (s : State) : State :=
  let m := s.tuner.motor
  let s1 := pidUpdate m rate t s
  let du := clamp (s1.pid.get m).lastOut 0 1
  let s2 := sendDuty m du (s1.setCmd m ⟨du, .forward, false⟩)
  s2.setTuner (recordCrossing (s1.pid.get m).ePrev t s.tuner)

/-- The tests behind a sample (R314, second half): success, budget, trial end, in that order. -/
def tunerDecide (t : Time) (s : State) : State :=
  if (s.tuner.crossCnt : Int) ≥ s.cfg.par.tuner.minCrossings then
    finish (successResult s.cfg (s.pid.get s.tuner.motor).kp s.tuner) s
  else if t - s.tuner.sweepStart ≥ s.cfg.par.tuner.sweepBudget then finish .failure s
  else if t - s.tuner.trialStart ≥ s.cfg.par.tuner.trialDuration then
    let s1 := s.setTuner { s.tuner with k := s.tuner.k + 1 }
    if trialGain s.cfg (s.tuner.k + 1) > s.cfg.par.tuner.kpEnd then finish .failure s1 else beginTrial t s1
  else s

/-- `AT_START m, sp, t` (R310); refused while the tuner runs (R311). -/
def execAtStart (m : Motor) (sp : Q) (t : Time) (s : State) : Host.Outcome State Fault Refusal :=
  if s.tuner.phase = .running then .next s else .next (startTuner m sp t s)

/-- `AT_SAMPLE rate, t` (R314); refused while the tuner is idle; a set `at_cancel` is taken first (R322). -/
def execAtSample (rate : Q) (t : Time) (s : State) : Host.Outcome State Fault Refusal :=
  if s.tuner.phase = .idle then .next s
  else if s.tuner.cancel then .next (finish .aborted s)
  else .next (tunerDecide t (tunerSample rate t s))

/-- `AT_CANCEL` (R330). -/
def execAtCancel (s : State) : Host.Outcome State Fault Refusal :=
  if s.tuner.phase = .running then .next (s.setTuner { s.tuner with cancel := true }) else .next s

end Sys2Proof.Machine
end

