-- ==== Sys2Proof/Machine/FrameDecoder.lean ====
section
/-! DEFINITION. The FrameDecoder (40_frame_decoder.md): the scan of `FD_FEED`, and the operations that feed bytes
(`FD_FEED`, `FD_FEED_BURST`, and the two frames as byte lists). -/

namespace Sys2Proof.Machine

/-- `start_mismatch(buf)` (R143): some byte present differs from the start pattern. -/
def startMismatch (v : Variant) (buf : List Byte) : Bool :=
  ((buf.zip (startPattern v)).any fun p => p.1 != p.2)

/-- `valid(w)` for a window that begins with the start pattern (R144). -/
def validWindow (v : Variant) (w : List Byte) : Bool :=
  match v with
  | .interval => computedChecksum w == storedChecksum w
  | .parity => byteAt w 24 == 0x00

/-- `decode(w)` (R145). -/
def decodeWindow (v : Variant) (w : List Byte) : ChannelSet :=
  match v with
  | .interval => intervalChannels w
  | .parity => parityChannels w

/-- `cause(w)` of a rejected window (R149). -/
def rejectCause : Variant → RejectCause
  | .interval => .cks
  | .parity => .endByte

/-- What the scan of one `FD_FEED` works on: the buffer, `last_good`, and the outputs and errors so far. -/
structure Scan where
  buf : List Byte
  lastGood : Option ChannelSet
  outs : List Output
  errs : List ErrorCond
deriving DecidableEq, Repr

/-- The loop of `FD_FEED` (R146), steps (S1) to (S4). `n` bounds the iterations: "every iteration either stops or
shortens `buf`", so `|buf| + 1` is enough (notes/assumptions/18.md). -/
def scanLoop (v : Variant) : Nat → Scan → Scan
  | 0, r => r
  | n + 1, r =>
    if r.buf.length = 0 then r
    else if startMismatch v r.buf then scanLoop v n { r with buf := bufDrop r.buf 1 }
    else if r.buf.length < frameLen v then r
    else if validWindow v (r.buf.take (frameLen v)) then
      scanLoop v n
        { buf := bufDrop r.buf (frameLen v)
          lastGood := some (decodeWindow v (r.buf.take (frameLen v)))
          outs := r.outs ++ [.frame (decodeWindow v (r.buf.take (frameLen v)))]
          errs := r.errs }
    else
      scanLoop v n
        { r with
          buf := bufDrop r.buf 1
          outs := r.outs ++ [.fdReject (rejectCause v)]
          errs := r.errs ++ [.frameError (rejectCause v)] }

/-- Step 1 of `FD_FEED b` (append, then the cap) and the scan (R146). -/
def feedScan (b : Byte) (s : State) : Scan :=
  let buf := bufTruncate s.cfg.par.bufCap (bufAppend s.buf b)
  scanLoop s.cfg.variant (buf.length + 1) ⟨buf, s.lastGood, [], []⟩

/-- The state after a scan: `buf`, `last_good`, the outputs and the error conditions. -/
def applyScan (r : Scan) (s : State) : State :=
  { s with buf := r.buf, lastGood := r.lastGood, outputs := s.outputs ++ r.outs, errors := s.errors ++ r.errs }

/-- `FD_FEED b` on the state. -/
def feedByte (b : Byte) (s : State) : State := applyScan (feedScan b s) s

/-- `FD_FEED b0; FD_FEED b1; ..` (R152). -/
def feedBytes (bs : List Byte) (s : State) : State := bs.foldl (fun s b => feedByte b s) s

/-- `FD_FEED b` (R146). -/
def execFdFeed (b : Byte) (s : State) : Host.Outcome State Fault Refusal := .next (feedByte b s)

/-- `FD_FEED_BURST b0 .. bn` "and nothing else" (R152). -/
def execFdFeedBurst (bytes : List Byte) (s : State) : Host.Outcome State Fault Refusal := .next (feedBytes bytes s)

/-- `IFRAME`: the byte list of R101 fed to the decoder (R131). -/
def execIframe (ch : Vector U16 14) (cksum : U16) (s : State) : Host.Outcome State Fault Refusal :=
  .next (feedBytes (iframeBytes ch cksum) s)

/-- `PFRAME`: the byte list of R108 fed to the decoder (R131). -/
def execPframe (ch : Vector U11 16) (b23 : Byte) (s : State) : Host.Outcome State Fault Refusal :=
  .next (feedBytes (pframeBytes ch b23) s)

end Sys2Proof.Machine
end

