-- ==== Sys2Proof/Machine/ChannelMapper.lean ====
section
/-! DEFINITION. The ChannelMapper (41_channel_mapper.md), a pure function of the ChannelSet and the configuration,
and its two queries `CM_MAP` and `CM_RANGE`. -/

namespace Sys2Proof.Machine

/-- Throttle (R185). -/
def throttleOf (p : MapperParams) (cs : ChannelSet) : Q :=
  match raw cs p.chThrottle with
  | none => 0
  | some v => if tri p v = .neutral then 0 else 100 * absQ (normalizeChannel p v)

/-- `s'` of R186: positive and negative exchanged when `DIR_INVERT` is true. -/
def invertTri (invert : Bool) (t : Tri) : Tri :=
  if invert then
    match t with
    | .positive => .negative
    | .negative => .positive
    | .neutral => .neutral
  else t

/-- Direction (R186). -/
def directionOf (p : MapperParams) (cs : ChannelSet) : Heading :=
  match invertTri p.dirInvert (readingTri p (raw cs p.chDir)) with
  | .positive => .forward
  | .negative => .reverse
  | .neutral => .idle

/-- The reading of a pivot or veer channel: positive is right, negative is left (R187, R188). -/
def turnOf (t : Tri) : Turn :=
  match t with
  | .positive => .right
  | .negative => .left
  | .neutral => .none

/-- Pivot (R187). -/
def pivotOf (p : MapperParams) (cs : ChannelSet) : Turn := turnOf (readingTri p (raw cs p.chPivot))

/-- Veer (R188). -/
def veerOf (p : MapperParams) (cs : ChannelSet) : Turn := turnOf (readingTri p (raw cs p.chVeer))

/-- The Intent's stateless brake flag (R189). -/
def intentBrake (cfg : Cfg) (cs : ChannelSet) : Bool :=
  match raw cs cfg.par.mapper.chBrake with
  | none => false
  | some v => inBand cfg.par.mapper v && decide (v < cfg.par.motion.brakeLo)

/-- The nearest candidate of R190 and its distance: the least `|v - e|` within the tolerance, "and among equals the
least `i`". -/
def nearestMode (tol v : Int) : List (Int × Mode) → Option (Nat × Mode)
  | [] => none
  | (e, mo) :: rest =>
    let d := (v - e).natAbs
    match nearestMode tol v rest with
    | none => if (d : Int) ≤ tol then some (d, mo) else none
    | some (d', mo') => if (d : Int) ≤ tol ∧ d ≤ d' then some (d, mo) else some (d', mo')

/-- Mode (R190); "the mode channel as unmatched" when it is absent (R181). -/
def modeOf (p : MapperParams) (cs : ChannelSet) : Mode :=
  match raw cs p.chMode with
  | none => p.modeSafe
  | some v =>
    match nearestMode p.modeTol v p.modeTable with
    | none => p.modeSafe
    | some (_, mo) => mo

/-- `CM_MAP cs` (R192). -/
def cmMap (cfg : Cfg) (cs : ChannelSet) : Intent where
  throttle := throttleOf cfg.par.mapper cs
  direction := directionOf cfg.par.mapper cs
  pivot := pivotOf cfg.par.mapper cs
  veer := veerOf cfg.par.mapper cs
  brake := intentBrake cfg cs
  mode := modeOf cfg.par.mapper cs

/-- The channel of each role `CM_RANGE` looks at, in the order of R191. -/
def rangeRoles (p : MapperParams) : List (Role × Nat) :=
  [(.veer, p.chVeer), (.dir, p.chDir), (.throttle, p.chThrottle), (.pivot, p.chPivot), (.arm, p.chArm),
   (.brake, p.chBrake)]

/-- `CM_RANGE(cs)`: the roles whose raw value is not `in_band` (R191), each once, in the order of R191
(notes/assumptions/13.md). -/
def cmRange (cfg : Cfg) (cs : ChannelSet) : List Role :=
  ((rangeRoles cfg.par.mapper).filter fun r => !readingInBand cfg.par.mapper (raw cs r.2)).map Prod.fst

/-- `worth_emitting(prev, it)` (R193). -/
def worthEmitting (cfg : Cfg) (prev : Option Intent) (it : Intent) : Bool :=
  decide (prev ≠ some it) || decide (it.mode = cfg.par.mapper.modeVerbose)

/-- `CM_MAP cs`, the query (R180): returns the Intent and changes no state. DESIGN CHOICE, unsafe
(notes/assumptions/26.md): the query records no `RangeError` of its own. R180 lists the condition as "reported through
`CM_RANGE`"; the rows of 60_exceptions.md R370 and R372 name `MSM_CYCLE` as the one operation that raises it. -/
def execCmMap (cs : ChannelSet) (s : State) : Host.Outcome State Fault Refusal :=
  .next (s.ret (.intent (cmMap s.cfg cs)))

/-- `CM_RANGE cs`, the query (R191): returns the set of roles and changes no state. DESIGN CHOICE, unsafe
(notes/assumptions/26.md): it reports the roles as its result and records no `RangeError`. -/
def execCmRange (cs : ChannelSet) (s : State) : Host.Outcome State Fault Refusal :=
  .next (s.ret (.roles (cmRange s.cfg cs)))

end Sys2Proof.Machine
end

