-- ==== Sys2Proof/Machine/Flags.lean ====
section
/-! DEFINITION. How each flag of RCB is computed. "Flags" are the one-bit or enumerated state registers of
10_state.md R40 to R58 (00_scope.md R22): the arm state, the low-throttle count, the brake flag. -/

namespace Sys2Proof.Machine

/-- `low_sample(cs)` (42_motion_state_machine.md R215). -/
def lowSample (cfg : Cfg) (cs : ChannelSet) : Bool :=
  match raw cs cfg.par.mapper.chThrottle with
  | none => false
  | some v => inBand cfg.par.mapper v && decide (((v - cfg.par.mapper.center).natAbs : Int) ≤ cfg.par.motion.armBand)

/-- The next `low_cnt` (R215): `min(low_cnt + 1, ARM_COUNT)` on a low sample, else 0. -/
def lowNext (cfg : Cfg) (cs : ChannelSet) (n : Nat) : Nat :=
  if lowSample cfg cs then (min ((n : Int) + 1) cfg.par.motion.armCount).toNat else 0

/-- `arm_switch(cs)` (R216). -/
def armSwitch (cfg : Cfg) (cs : ChannelSet) : Bool :=
  readingTri cfg.par.mapper (raw cs cfg.par.mapper.chArm) == .positive

/-- The next arm state of a processed frame (R217, R218), from the `low_cnt` already updated with it. -/
def armNext (cfg : Cfg) (cs : ChannelSet) (low : Nat) (a : ArmState) : ArmState :=
  match a with
  | .warmup => .warmup
  | .idleUnarmed => if armSwitch cfg cs && decide ((low : Int) ≥ cfg.par.motion.armCount) then .armed else .idleUnarmed
  | .armed => if armSwitch cfg cs then .armed else .idleUnarmed

/-- `brake_next(brake, cs)` (R220). -/
def brakeNext (cfg : Cfg) (cs : ChannelSet) (brake : Bool) : Bool :=
  match raw cs cfg.par.mapper.chBrake with
  | none => brake
  | some v =>
    if inBand cfg.par.mapper v && decide (v < cfg.par.motion.brakeLo) then true
    else if inBand cfg.par.mapper v && decide (v > cfg.par.motion.brakeHi) then false
    else brake

end Sys2Proof.Machine
end

