-- ==== Sys2Proof/Machine/MotionStateMachine.lean ====
section
/-! DEFINITION. The MotionStateMachine (42_motion_state_machine.md): `MSM_CYCLE`, one definition per group of lines
of the pseudocode of R210, in its order. -/

namespace Sys2Proof.Machine

/-! ### Values -/

/-- `base(it)` (R222). -/
def baseSpin (it : Intent) : Spin := if it.direction = .reverse then .reverse else .forward

/-- `opposite` (R223). -/
def Spin.opposite : Spin → Spin
  | .forward => .reverse
  | .reverse => .forward

/-- Whether the pivot overrides the direction of motor `m` (R223). -/
def pivotAffects (it : Intent) (m : Motor) : Bool :=
  match m with
  | .L => it.pivot == .left
  | .R => it.pivot == .right

/-- `motor_direction(it, m)` (R223). -/
def motorDirection (it : Intent) (m : Motor) : Spin :=
  if pivotAffects it m then (baseSpin it).opposite else baseSpin it

/-- `moving` (R225). -/
def moving (it : Intent) : Bool := it.direction != .idle || it.pivot != .none

/-- `duty_request(it, ovr, m)` (R224). -/
def dutyRequest (it : Intent) (ovr : PerMotor (Option Q)) (m : Motor) : Q :=
  match ovr.get m with
  | some d => clamp d 0 1
  | none => it.throttle / 100

/-- `s[m]` (R225): the duty request behind the three gates. -/
def motorSpeed (it : Intent) (ovr : PerMotor (Option Q)) (m : Motor) (s : State) : Q :=
  if s.arm = .armed ∧ s.brake = false ∧ moving it = true then dutyRequest it ovr m else 0

/-! ### The cycle -/

/-- A cycle in `WARMUP` (R214): the frame is discarded. -/
def warmupCycle (s : State) : State :=
  let s1 := { s with warmCnt := s.warmCnt + 1 }
  if (s1.warmCnt : Int) ≥ s.cfg.par.motion.warmupCount then
    State.emit { s1 with arm := .idleUnarmed } (.evArm .warmup .idleUnarmed)
  else s1

/-- The range event (R211). -/
def checkRange (cs : ChannelSet) (s : State) : State :=
  if cmRange s.cfg cs = [] then s
  else (s.raise (.rangeError (cmRange s.cfg cs))).emit (.evRange (cmRange s.cfg cs))

/-- The Intent notification (R212). -/
def notifyIntent (it : Intent) (s : State) : State :=
  if worthEmitting s.cfg s.prevIntent it then { s.emit (.evIntent it) with prevIntent := some it } else s

/-- `low_cnt` (R215). -/
def updateLow (cs : ChannelSet) (s : State) : State := { s with lowCnt := lowNext s.cfg cs s.lowCnt }

/-- The arm transition and its event (R217, R218). -/
def updateArm (cs : ChannelSet) (s : State) : State :=
  let a := armNext s.cfg cs s.lowCnt s.arm
  if a = s.arm then s else { s.emit (.evArm s.arm a) with arm := a }

/-- The brake flag and its event (R220, R221). -/
def updateBrake (cs : ChannelSet) (s : State) : State :=
  let b := brakeNext s.cfg cs s.brake
  if b = s.brake then s else { s.emit (.evBrake b) with brake := b }

/-- The command and the actuation calls of motor `m` (R226), unless the tuner owns it (R227). -/
def driveMotor (it : Intent) (ovr : PerMotor (Option Q)) (m : Motor) (s : State) : State :=
  if s.tuneOwner = some m then s
  else
    let d := motorDirection it m
    let v := motorSpeed it ovr m s
    sendBrakeIfChanged m s.brake (sendDuty m v (sendDirection m d (s.setCmd m ⟨v, d, s.brake⟩)))

/-- Whether the advisory may go out at `t` (R228): none was emitted before, or the last one was at least
`ADV_INTERVAL` ago. -/
def advisoryDue (cfg : Cfg) (last : Option Time) (t : Time) : Bool :=
  match last with
  | none => true
  | some l => decide (t - l ≥ cfg.par.motion.advInterval)

/-- The not-armed advisory (R228). -/
def adviseNotArmed (it : Intent) (ovr : PerMotor (Option Q)) (t : Time) (s : State) : State :=
  if s.arm ≠ .armed ∧ moving it = true ∧ (dutyRequest it ovr .L > 0 ∨ dutyRequest it ovr .R > 0) then
    let s1 := s.raise .notArmedError
    if advisoryDue s.cfg s.lastAdv t then { s1.emit (.evNotArmed t) with lastAdv := some t } else s1
  else s

/-- A cycle outside `WARMUP` (R210), with the Intent `it = CM_MAP(cs)`. -/
def processedCycle (cs : ChannelSet) (t : Time) (ovr : PerMotor (Option Q)) (s : State) : State :=
  let it := cmMap s.cfg cs
  let settled := updateBrake cs (updateArm cs (updateLow cs (notifyIntent it (checkRange cs s))))
  adviseNotArmed it ovr t (driveMotor it ovr .R (driveMotor it ovr .L settled))

/-- `MSM_CYCLE(cs, t, ovr)` on the state (R210). -/
def motionCycle (cs : ChannelSet) (t : Time) (ovr : PerMotor (Option Q)) (s : State) : State :=
  if s.arm = .warmup then warmupCycle s else processedCycle cs t ovr s

/-- `MSM_CYCLE cs, t, ovr` (R210). -/
def execMsmCycle (cs : ChannelSet) (t : Time) (ovr : PerMotor (Option Q)) (s : State) :
    Host.Outcome State Fault Refusal := .next (motionCycle cs t ovr s)

end Sys2Proof.Machine
end

