-- ==== Sys2Proof/Machine/ControlLoop.lean ====
section
/-! DEFINITION. The control loop (46_control_loop.md): `LOOP_POLL`. -/

namespace Sys2Proof.Machine

/-- The ChannelSet of the `FRAME(cs)` among an operation's outputs, if there is one; an `FD_FEED` emits at most one
(40_frame_decoder.md R151). -/
def frameIn : List Output → Option ChannelSet
  | [] => none
  | .frame cs :: _ => some cs
  | _ :: os => frameIn os

/-- One byte of a poll (R350): `FD_FEED`, and the `MSM_CYCLE` at once if it emitted a frame. -/
def pollByte (t : Time) (ovr : PerMotor (Option Q)) (s : State) (b : Byte) : State :=
  match frameIn (feedScan b s).outs with
  | some cs => motionCycle cs t ovr (feedByte b s)
  | none => feedByte b s

/-- `LOOP_POLL(bytes, t, ovr)` on the state (R350). -/
def pollBytes (bytes : List Byte) (t : Time) (ovr : PerMotor (Option Q)) (s : State) : State :=
  bytes.foldl (pollByte t ovr) s

/-- `LOOP_POLL bytes, t, ovr` (R350). -/
def execLoopPoll (bytes : List Byte) (t : Time) (ovr : PerMotor (Option Q)) (s : State) :
    Host.Outcome State Fault Refusal := .next (pollBytes bytes t ovr s)

end Sys2Proof.Machine
end

