-- ==== Sys2Proof/Machine/PulseRateEstimator.lean ====
section
/-! DEFINITION. The PulseRateEstimator (43_pulse_rate_estimator.md). -/

namespace Sys2Proof.Machine

/-- `PRE_SAMPLE(m, delta, elapsed)` on the state (R260); what it returns is `pre[m].rate` afterwards. -/
def preSample (m : Motor) (delta : Nat) (elapsed : Q) (s : State) : State :=
  if elapsed ≤ 0 then s.raise .sampleTimingError
  else s.setPre m { s.pre.get m with rate := rnd s.cfg ((delta : Q) / elapsed) }

/-- The part of `PRE_TICK` that forms the differences (R264). A reading counts as the first when either stored
value is missing (notes/assumptions/14.md). -/
def preDifference (m : Motor) (count : Nat) (t : Time) (s : State) : State :=
  match (s.pre.get m).lastCount, (s.pre.get m).lastT with
  | some c, some l =>
    if count < c ∨ t ≤ l then s.raise .sampleTimingError
    else preSample m (count - c) (t - l) s
  | _, _ => s

/-- `PRE_TICK(m, count, t)` on the state (R264): the differences, then the new reference reading. -/
def preTick (m : Motor) (count : Nat) (t : Time) (s : State) : State :=
  let s1 := preDifference m count t s
  s1.setPre m { s1.pre.get m with lastCount := some count, lastT := some t }

/-- `PRE_SAMPLE m, delta, elapsed` (R260). -/
def execPreSample (m : Motor) (delta : Nat) (elapsed : Q) (s : State) : Host.Outcome State Fault Refusal :=
  let s1 := preSample m delta elapsed s
  .next (s1.ret (.number (s1.pre.get m).rate))

/-- `PRE_TICK m, count, t` (R264). -/
def execPreTick (m : Motor) (count : Nat) (t : Time) (s : State) : Host.Outcome State Fault Refusal :=
  let s1 := preTick m count t s
  .next (s1.ret (.number (s1.pre.get m).rate))

/-- `PRE_RPM m, rate`, the query (R268): `rnd(rate / PPR[m] · 60)`. -/
def execPreRpm (m : Motor) (rate : Q) (s : State) : Host.Outcome State Fault Refusal :=
  .next (s.ret (.number (rnd s.cfg (rate / ((s.cfg.par.ppr.get m : Int) : Q) * 60))))

end Sys2Proof.Machine
end

