-- ==== Sys2Proof/Machine/Reset.lean ====
section
/-! DEFINITION. `RESET` (70_reset_and_hazards.md R420 to R433) and the reserved operation code (30_encoding.md
R127). -/

namespace Sys2Proof.Machine

/-- `RESET cfg` (R420): fixes `cfg` and puts every register at its reset value; "It emits no output". A record in
which `VARIANT` is not given (V1) or which fails `valid_cfg` is refused: "no state changes, the previous
configuration (if any) stays" (R432). The model's own fields are not registers and stay. -/
def execReset (variant : Option Variant) (par : Params) (s : State) : Host.Outcome State Fault Refusal :=
  match variant with
  | none => .next s
  | some v =>
    if validCfg ⟨v, par⟩ then
      .next { State.resetWith ⟨v, par⟩ with
        inbox := s.inbox, outputs := s.outputs, errors := s.errors, result := s.result }
    else .next s

/-- Operation code `0xF`: "changes no state and produces no output" (R127). -/
def execReservedF (s : State) : Host.Outcome State Fault Refusal := .next s

end Sys2Proof.Machine
end

