-- ==== Sys2Proof/Machine/Dispatch.lean ====
section
/-! DEFINITION. The meaning of an operation: one arm per constructor, in the order of spec/opcode_table.json. -/

namespace Sys2Proof.Machine

def exec (i : Instr) (s : State) : Host.Outcome State Fault Refusal :=
  match i with
  | .iframe ch cksum => Sys2Proof.Machine.execIframe ch cksum s
  | .pframe ch b23 => Sys2Proof.Machine.execPframe ch b23 s
  | .reset variant par => Sys2Proof.Machine.execReset variant par s
  | .fdFeed b => Sys2Proof.Machine.execFdFeed b s
  | .msmCycle cs t ovr => Sys2Proof.Machine.execMsmCycle cs t ovr s
  | .preSample m delta elapsed => Sys2Proof.Machine.execPreSample m delta elapsed s
  | .preTick m count t => Sys2Proof.Machine.execPreTick m count t s
  | .pidUpdate m meas t => Sys2Proof.Machine.execPidUpdate m meas t s
  | .pidReset m => Sys2Proof.Machine.execPidReset m s
  | .pidSetGains m kp ki kd => Sys2Proof.Machine.execPidSetGains m kp ki kd s
  | .pidSetSetpoint m sp => Sys2Proof.Machine.execPidSetSetpoint m sp s
  | .pidSetBounds m lo hi => Sys2Proof.Machine.execPidSetBounds m lo hi s
  | .atStart m sp t => Sys2Proof.Machine.execAtStart m sp t s
  | .atSample rate t => Sys2Proof.Machine.execAtSample rate t s
  | .atCancel => Sys2Proof.Machine.execAtCancel s
  | .cmMap cs => Sys2Proof.Machine.execCmMap cs s
  | .preRpm m rate => Sys2Proof.Machine.execPreRpm m rate s
  | .reservedF => Sys2Proof.Machine.execReservedF s
  | .fdFeedBurst bytes => Sys2Proof.Machine.execFdFeedBurst bytes s
  | .loopPoll bytes t ovr => Sys2Proof.Machine.execLoopPoll bytes t ovr s
  | .cmRange cs => Sys2Proof.Machine.execCmRange cs s

end Sys2Proof.Machine
end

