-- ==== Sys2Proof/Machine/Step.lean ====
section
/-! DEFINITION. One step: RCB takes the oldest issued operation and runs it. RCB fetches nothing (10_state.md R32);
the environment chooses which operation comes next (00_scope.md R9), and its choices stand in `inbox`. -/

namespace Sys2Proof.Machine

/-- The state an operation starts in: no output, no error and no returned value yet (notes/assumptions/6.md). -/
def State.beginOp (s : State) : State := { s with outputs := [], errors := [], result := none }

/-- One step. With no operation issued nothing happens (notes/assumptions/7.md); otherwise the oldest request is
taken off the inbox, decoded and run. -/
def step (s : State) : Host.Outcome State Fault Refusal :=
  match s.inbox with
  | [] => .next s.beginOp
  | q :: rest =>
    match decodeRequest q with
    | .ok i => exec i { s with inbox := rest }.beginOp
    | .error e => .refused (.badRequest e)

/-- `s` with the instruction of a table word issued as the very next operation. -/
def State.withFetchWord (s : State) (nbits w : Nat) : State := { s with inbox := tableRequest nbits w :: s.inbox }

end Sys2Proof.Machine
end

