-- ==== Sys2Proof/Safety.lean ====
section
/-! DEFINITION. What counts as a safe state of RCB: the invariants of 10_state.md R59 and of the registers' own
rules, as one predicate that every step is to keep. -/

namespace Sys2Proof

open Sys2Proof.Machine

/-- The normal form of the buffer (40_frame_decoder.md R150): nothing in it rules out a frame at offset 0, and it is
shorter than a frame. -/
def BufNormal (v : Variant) (buf : List Byte) : Prop := startMismatch v buf = false ∧ buf.length < frameLen v

/-- The form of a ChannelSet FD emits (10_state.md R34): interval, channels 1..14 present and 15, 16 absent; parity,
all sixteen present and below 2048. -/
def ChannelsOf (v : Variant) (cs : ChannelSet) : Prop :=
  match v with
  | .interval => ∀ k, 1 ≤ k → k ≤ 16 → ((chan cs k).isSome ↔ k ≤ 14)
  | .parity => ∀ k, 1 ≤ k → k ≤ 16 → ∃ u, chan cs k = some u ∧ u.toNat < 2048

/-- `0 ≤ cmd[m].speed ≤ 1` (10_state.md R45, R59 (c)). -/
def SpeedOk (c : MotorCommand) : Prop := 0 ≤ c.speed ∧ c.speed ≤ 1

/-- A duty the actuation interface may be given (R59 (c)): `set_duty(m, f)` has `f` in [0, 1]. -/
def DutyOk : Output → Prop
  | .setDuty _ f => 0 ≤ f ∧ f ≤ 1
  | _ => True

/-- The frame decoder's part: the buffer's normal form, and the form of `last_good`. -/
def FdInv (s : State) : Prop :=
  BufNormal s.cfg.variant s.buf ∧ ∀ cs, s.lastGood = some cs → ChannelsOf s.cfg.variant cs

/-- The arm state's part (R40, R41, R42, R59 (d)): the warmup counter is below its bound in `WARMUP` and has reached
it outside, and `low_cnt` does not pass `ARM_COUNT`. -/
def ArmInv (s : State) : Prop :=
  (s.arm = .warmup → (s.warmCnt : Int) < s.cfg.par.motion.warmupCount) ∧
  (s.arm ≠ .warmup → (s.warmCnt : Int) = s.cfg.par.motion.warmupCount) ∧
  (s.lowCnt : Int) ≤ s.cfg.par.motion.armCount

/-- The motors' part: speeds in [0, 1], bounds in order (R46), and a count reading with its time (R47). -/
def MotorInv (s : State) : Prop :=
  ∀ m, SpeedOk (s.cmd.get m) ∧ (s.pid.get m).outMin ≤ (s.pid.get m).outMax ∧
    ((s.pre.get m).lastCount.isSome ↔ (s.pre.get m).lastT.isSome)

/-- The crossing registers' part (R50, 45_auto_tuner.md R318): they fill in order, one per recorded crossing, and
their times strictly increase. -/
def CrossInv (r : TunerRegs) : Prop :=
  (1 ≤ r.crossCnt ↔ r.c1.isSome) ∧ (2 ≤ r.crossCnt ↔ r.c2.isSome) ∧ (3 ≤ r.crossCnt ↔ r.c3.isSome) ∧
  (∀ a b, r.c1 = some a → r.c2 = some b → b < a) ∧ (∀ b c, r.c2 = some b → r.c3 = some c → c < b)

/-- The ownership invariant of R58: "`tune_owner = some m` if and only if `at_phase = AT_RUNNING` and
`at_motor = m`". -/
def OwnerInv (s : State) : Prop :=
  ∀ m, s.tuneOwner = some m ↔ (s.tuner.phase = .running ∧ s.tuner.motor = m)

/-- A safe state: the configuration is valid (70_reset_and_hazards.md R431), the buffer respects the cap, and every
part above holds. -/
def SafeState (s : State) : Prop :=
  validCfg s.cfg = true ∧ Memory.wf s.cfg.par.bufCap s.buf ∧ FdInv s ∧ ArmInv s ∧ MotorInv s ∧ CrossInv s.tuner ∧
  OwnerInv s

/-- The ChannelSets among the outputs, in order (40_frame_decoder.md R153). -/
def framesOf (os : List Output) : List ChannelSet :=
  os.filterMap fun o =>
    match o with
    | .frame cs => some cs
    | _ => none

/-- The actuation calls for motor `m` (60_exceptions.md R390). -/
def isCallFor (m : Motor) : Output → Bool
  | .setDuty m' _ => m' == m
  | .setDirection m' _ => m' == m
  | .setBrake m' _ => m' == m
  | _ => false

/-- The whole-stream reading of R153: the frames of a byte stream and the bytes at which it stops. It walks a
position over the stream and mentions neither a buffer, nor a cap, nor chunks; `n` bounds the number of its steps. -/
def streamScan (v : Variant) : Nat → List Byte → List ChannelSet × List Byte
  | 0, s => ([], s)
  | n + 1, s =>
    if startMismatch v s then streamScan v n (s.drop 1)
    else if s.length < frameLen v then ([], s)
    else if validWindow v (s.take (frameLen v)) then
      let r := streamScan v n (s.drop (frameLen v))
      (decodeWindow v (s.take (frameLen v)) :: r.1, r.2)
    else streamScan v n (s.drop 1)

end Sys2Proof
end

