-- ==== Sys2Proof/Certificates/Slice0/Obligations.lean ====
section
/-! DEFINITION. The statements for the provers. Each is a property of the machine; the docstring names the rule of
spec/ it formalises, and the notes/assumptions row where a clause rests on a choice of the model. The fields `outputs`,
`errors`, `result` and `inbox` that a next state is written out with are the model's own in every statement
(notes/assumptions/1.md, 6.md, 20.md). -/

open Sys2Proof Sys2Proof.Machine

/-! ### Requests and steps -/

/-- Decoding the request of a well-formed operation gives the operation back, for every operation and every operand.
The operand layout is the model's (notes/assumptions/2.md, 3.md); the codes are R125's and the frames R101's and
R108's. -/
def Obligations.DecodeOfEncodeIsIdentity : Prop :=
  ∀ i : Instr, i.wellFormed = true → decodeRequest (encode i) = .ok i

/-- Bytes written out from R101 (packet VI1), R108 (frame VP1) and each of the sixteen codes of R125 decode to what they
stand for. The operand bytes (notes/assumptions/2.md), the ports with their classification of a delivery and the selects
of the pseudo-operations (3.md), the zero bytes accepted behind the last operand, as behind the 70 zero operand bytes of the
`RESET` here (5.md), and the constructor for code `0xF` (23.md) are the model's choices. -/
def Obligations.KnownBytesDecode : Prop :=
  decodeRequest ⟨.transport,
    [0x20, 0x40, 0xDC, 0x05, 0xDC, 0x05, 0xDC, 0x05, 0xDC, 0x05, 0xDC, 0x05, 0xDC, 0x05, 0xDC, 0x05, 0xDC, 0x05,
     0xDC, 0x05, 0xDC, 0x05, 0xDC, 0x05, 0xDC, 0x05, 0xDC, 0x05, 0xDC, 0x05, 0x51, 0xF3]⟩ =
    .ok (.iframe (Vector.replicate 14 1500) 0xF351) ∧
  decodeRequest ⟨.transport,
    [0x0F, 0x00, 0x04, 0x20, 0x00, 0x01, 0x08, 0x40, 0x00, 0x02, 0x10, 0x80, 0x00, 0x04, 0x20, 0x00, 0x01, 0x08,
     0x40, 0x00, 0x02, 0x10, 0x80, 0x00, 0x00]⟩ = .ok (.pframe (Vector.replicate 16 1024) 0) ∧
  decodeRequest ⟨.command, 0x0 :: 2 :: List.replicate 79 0⟩ = .ok (.reset (some .parity)
    { bufCap := 0
      mapper := ⟨0, 0, 0, 0, 0, 0, [], .normal, .normal, false, 0, 0, 0, 0, 0, 0, 0⟩
      motion := ⟨0, 0, 0, 0, 0, 0⟩
      ppr := ⟨0, 0⟩
      pidInit := ⟨⟨0, 0, 0, 0, 0, 0⟩, ⟨0, 0, 0, 0, 0, 0⟩⟩
      antiWindup := false
      tuner := ⟨0, 0, 0, 0, 0, 0, 0, 0, 0⟩
      numRnd := .exact }) ∧
  decodeRequest ⟨.command, [0x1, 0x20]⟩ = .ok (.fdFeed 0x20) ∧
  decodeRequest ⟨.command, 0x2 :: List.replicate 16 0 ++ [2, 49, 1, 6, 1, 0]⟩ =
    .ok (.msmCycle (Vector.replicate 16 none) (1 / 50) ⟨some (3 / 2), none⟩) ∧
  decodeRequest ⟨.command, [0x3, 0, 40, 2, 1]⟩ = .ok (.preSample .L 40 (1 / 2)) ∧
  decodeRequest ⟨.command, [0x4, 1, 0x8C, 0x01, 6, 1]⟩ = .ok (.preTick .R 140 (3 / 2)) ∧
  decodeRequest ⟨.command, [0x5, 0, 1, 3, 2, 0]⟩ = .ok (.pidUpdate .L (-1 / 4) 1) ∧
  decodeRequest ⟨.command, [0x6, 0x01]⟩ = .ok (.pidReset .R) ∧
  decodeRequest ⟨.command, [0x7, 0, 4, 0, 2, 1, 0, 0]⟩ = .ok (.pidSetGains .L 2 (1 / 2) 0) ∧
  decodeRequest ⟨.command, [0x8, 0, 80, 0]⟩ = .ok (.pidSetSetpoint .L 40) ∧
  decodeRequest ⟨.command, [0x9, 0, 19, 0, 20, 0]⟩ = .ok (.pidSetBounds .L (-10) 10) ∧
  decodeRequest ⟨.command, [0xA, 1, 100, 0, 2, 0]⟩ = .ok (.atStart .R 50 1) ∧
  decodeRequest ⟨.command, [0xB, 0xB4, 0x01, 0, 6, 0]⟩ = .ok (.atSample 90 3) ∧
  decodeRequest ⟨.command, [0xC]⟩ = .ok .atCancel ∧
  decodeRequest ⟨.command, 0xD :: List.replicate 16 0⟩ = .ok (.cmMap (Vector.replicate 16 none)) ∧
  decodeRequest ⟨.command, [0xE, 0, 2, 2]⟩ = .ok (.preRpm .L (1 / 3)) ∧
  decodeRequest ⟨.command, [0xF]⟩ = .ok .reservedF ∧
  decodeRequest ⟨.pseudo, [0, 2, 0x20, 0x40]⟩ = .ok (.fdFeedBurst [0x20, 0x40]) ∧
  decodeRequest ⟨.pseudo, [1, 2, 0x20, 0x40, 2, 99, 0, 0]⟩ = .ok (.loopPoll [0x20, 0x40] (1 / 100) ⟨none, none⟩) ∧
  decodeRequest ⟨.pseudo, 2 :: List.replicate 16 0⟩ = .ok (.cmRange (Vector.replicate 16 none))

/-- Whatever the decoder accepts is well-formed: no `Time` operand is negative (R19). -/
def Obligations.DecodedOperationsAreWellFormed : Prop :=
  ∀ (q : Request) (i : Instr), decodeRequest q = .ok i → i.wellFormed = true

/-- A step runs exactly the operation the oldest request stands for, on the state without that request and with no
output yet; with no request nothing happens; bytes that stand for nothing are refused by name
(notes/assumptions/1.md, 6.md, 7.md). -/
def Obligations.StepRunsTheDecodedOperation : Prop :=
  (∀ (s : State) (q : Request) (rest : List Request) (i : Instr),
    s.inbox = q :: rest → decodeRequest q = .ok i → i.wellFormed = true →
    step s = exec i { s with inbox := rest, outputs := [], errors := [], result := none }) ∧
  (∀ s : State, s.inbox = [] → step s = .next { s with outputs := [], errors := [], result := none }) ∧
  (∀ (s : State) (q : Request) (rest : List Request) (e : DecodeError),
    s.inbox = q :: rest → decodeRequest q = .error e → step s = .refused (.badRequest e))

/-- Every operation completes in every state (R362, R376): there is no fault, no stuck state and no refusal. -/
def Obligations.EveryOperationCompletes : Prop :=
  ∀ (i : Instr) (s : State), ∃ s', exec i s = .next s'

/-- Operation code `0xF` changes no state and produces no output (R127), and a step that takes it from the command port
does nothing else than take it, whatever bytes stand behind the code. The operation type has nothing for the code: no
`Operation` is encoded with it or decoded from it, while every other row is an `Operation`. The row itself as a constructor
of `Instr` is the model's reading of the opcode table (notes/assumptions/23.md); the inbox and the cleared fields are the
model's (1.md, 6.md). -/
def Obligations.ReservedCodeHasNoEffect : Prop :=
  (∀ s : State, exec .reservedF s = .next s) ∧
  (∀ (s : State) (bytes : List Byte) (rest : List Request), s.inbox = ⟨.command, 0x0F :: bytes⟩ :: rest →
    step s = .next { s with inbox := rest, outputs := [], errors := [], result := none }) ∧
  (∀ (o : Operation) (bytes : List Byte),
    decodeRequest ⟨.command, 0x0F :: bytes⟩ ≠ .ok o.val ∧ encode o.val ≠ ⟨.command, 0x0F :: bytes⟩) ∧
  (∀ i : Instr, i ≠ .reservedF → ∃ o : Operation, o.val = i)

/-! ### The invariant -/

/-- The state after `RESET cfg` is safe, for every configuration that `valid_cfg` accepts (R60, R431), and so is
`State.reset`, which is that state for the one configuration the model chose (notes/assumptions/8.md). -/
def Obligations.ResetStateIsSafe : Prop :=
  SafeState State.reset ∧ ∀ c : Cfg, validCfg c = true → SafeState (State.resetWith c)

/-- Every step keeps the invariant, from every safe state. -/
def Obligations.EveryStepKeepsTheInvariant : Prop :=
  ∀ s s' : State, SafeState s → step s = .next s' → SafeState s'

/-- Every duty a step sends is in [0, 1], whatever the state (R59 (c)). -/
def Obligations.EveryDutySentIsAFraction : Prop :=
  ∀ s s' : State, step s = .next s' → ∀ o ∈ s'.outputs, DutyOk o

/-- No operation but `RESET` changes the configuration (R433). -/
def Obligations.OnlyResetChangesTheConfiguration : Prop :=
  ∀ (i : Instr) (s s' : State), (∀ v p, i ≠ .reset v p) → exec i s = .next s' → s'.cfg = s.cfg

/-- No operation but `RESET` enters `WARMUP` (R213). -/
def Obligations.OnlyResetEntersWarmup : Prop :=
  ∀ (i : Instr) (s s' : State), (∀ v p, i ≠ .reset v p) → s.arm ≠ .warmup → exec i s = .next s' → s'.arm ≠ .warmup

/-- `tune_owner` moves only by `AT_START` (to the motor it names), by `AT_SAMPLE` (to `none`) and by `RESET` (R390). -/
def Obligations.OnlyTheTunerMovesOwnership : Prop :=
  ∀ (i : Instr) (s s' : State), exec i s = .next s' → s'.tuneOwner ≠ s.tuneOwner →
    (∃ v p, i = .reset v p ∧ s'.tuneOwner = none) ∨
    (∃ m sp t, i = .atStart m sp t ∧ s'.tuneOwner = some m) ∨
    (∃ r t, i = .atSample r t ∧ s'.tuneOwner = none)

/-- While the tuner owns motor `m`, no operation but the tuner's and `RESET` touches `m`'s command, actuation shadow
or PID registers, sends a call for `m`, or moves the ownership (R390). -/
def Obligations.OwnedMotorIsUntouched : Prop :=
  ∀ (i : Instr) (s s' : State) (m : Motor), s.tuneOwner = some m →
    (∀ v p, i ≠ .reset v p) → (∀ n sp t, i ≠ .atStart n sp t) → (∀ r t, i ≠ .atSample r t) → exec i s = .next s' →
    s'.cmd.get m = s.cmd.get m ∧ s'.act.get m = s.act.get m ∧ s'.pid.get m = s.pid.get m ∧
    s'.tuneOwner = some m ∧
    ∃ os, s'.outputs = s.outputs ++ os ∧ ∀ o ∈ os, isCallFor m o = false

/-! ### RESET -/

/-- `RESET` with a valid configuration fixes it and puts every register at the value of R60's table, with no output;
with an invalid one it is refused (R420). That the fields `inbox`, `outputs`, `errors` and `result` stay is the model's
choice (notes/assumptions/1.md, 6.md). -/
def Obligations.ResetSetsEveryRegister : Prop :=
  ∀ (v : Variant) (par : Params) (s : State), (validCfg ⟨v, par⟩ = false → exec (.reset (some v) par) s = .next s) ∧
    (validCfg ⟨v, par⟩ = true → exec (.reset (some v) par) s = .next
      { cfg := ⟨v, par⟩
        buf := []
        lastGood := none
        prevIntent := none
        arm := if par.motion.warmupCount > 0 then .warmup else .idleUnarmed
        warmCnt := 0
        lowCnt := 0
        brake := true
        lastAdv := none
        cmd := ⟨⟨0, .forward, true⟩, ⟨0, .forward, true⟩⟩
        act := ⟨⟨none, none, none⟩, ⟨none, none, none⟩⟩
        pid :=
          ⟨⟨par.pidInit.l.kp0, par.pidInit.l.ki0, par.pidInit.l.kd0, par.pidInit.l.sp0, par.pidInit.l.outMin0,
            par.pidInit.l.outMax0, 0, 0, none, 0, clamp 0 par.pidInit.l.outMin0 par.pidInit.l.outMax0⟩,
           ⟨par.pidInit.r.kp0, par.pidInit.r.ki0, par.pidInit.r.kd0, par.pidInit.r.sp0, par.pidInit.r.outMin0,
            par.pidInit.r.outMax0, 0, 0, none, 0, clamp 0 par.pidInit.r.outMin0 par.pidInit.r.outMax0⟩⟩
        pre := ⟨⟨0, none, none⟩, ⟨0, none, none⟩⟩
        tuner := ⟨.idle, .L, 0, 0, 0, 0, 0, none, none, none, .zero, ⟨0, 0, 0, 0⟩, none, false⟩
        tuneOwner := none
        inbox := s.inbox
        outputs := s.outputs
        errors := s.errors
        result := s.result })

/-- `RESET` with an invalid configuration, or with `VARIANT` not given, is refused: no state changes (R432). -/
def Obligations.ResetRefusesAnInvalidConfiguration : Prop :=
  ∀ (v : Option Variant) (par : Params) (s : State),
    (∀ w, v = some w → validCfg ⟨w, par⟩ = false) → exec (.reset v par) s = .next s

/-- `valid_cfg` is the conditions V2 to V17 of R431, with the lengths, the channel counts and the seven role channels of
R12 and R13 written out. V1 is that the variant is given at all; the parts of V6 about names and the finite table hold by
the types (notes/assumptions/12.md). -/
def Obligations.ValidConfigurationIsTheListedConditions : Prop :=
  ∀ c : Cfg, validCfg c = true ↔
    ((match c.variant with | .interval => (32 : Int) | .parity => 25) ≤ c.par.bufCap ∧
     0 < c.par.mapper.fullScale ∧
     (0 ≤ c.par.mapper.deadzone ∧ c.par.mapper.deadzone < c.par.mapper.fullScale) ∧
     c.par.mapper.saneLo ≤ c.par.mapper.saneHi ∧
     0 ≤ c.par.mapper.modeTol ∧
     (∀ k ∈ [c.par.mapper.chVeer, c.par.mapper.chDir, c.par.mapper.chThrottle, c.par.mapper.chPivot,
         c.par.mapper.chArm, c.par.mapper.chBrake, c.par.mapper.chMode],
       1 ≤ k ∧ k ≤ (match c.variant with | .interval => 14 | .parity => 16)) ∧
     [c.par.mapper.chVeer, c.par.mapper.chDir, c.par.mapper.chThrottle, c.par.mapper.chPivot,
       c.par.mapper.chArm, c.par.mapper.chBrake, c.par.mapper.chMode].Nodup ∧
     (0 ≤ c.par.motion.warmupCount ∧ 1 ≤ c.par.motion.armCount ∧ 0 ≤ c.par.motion.armBand) ∧
     c.par.motion.brakeLo ≤ c.par.motion.brakeHi ∧
     0 < c.par.motion.advInterval ∧
     (∀ m, 0 < c.par.ppr.get m) ∧
     (∀ m, (c.par.pidInit.get m).outMin0 ≤ (c.par.pidInit.get m).outMax0) ∧
     (0 < c.par.tuner.kpStep ∧ c.par.tuner.kpStart ≤ c.par.tuner.kpEnd) ∧
     3 ≤ c.par.tuner.minCrossings ∧
     (0 < c.par.tuner.trialDuration ∧ 0 < c.par.tuner.sweepBudget) ∧
     c.par.tuner.znKdDen ≠ 0)

/-! ### FrameDecoder -/

/-- Step (S3): the byte that completes a valid window. The window is consumed whole, its ChannelSet goes to
`last_good` and is the one output; nothing else changes (R146, R147). -/
def Obligations.CompletedValidWindowIsAFrame : Prop :=
  ∀ (s : State) (b : Byte), BufNormal s.cfg.variant s.buf → (frameLen s.cfg.variant : Int) ≤ s.cfg.par.bufCap →
    (s.buf ++ [b]).length = frameLen s.cfg.variant → validWindow s.cfg.variant (s.buf ++ [b]) = true →
    exec (.fdFeed b) s = .next { s with
      buf := []
      lastGood := some (decodeWindow s.cfg.variant (s.buf ++ [b]))
      outputs := s.outputs ++ [.frame (decodeWindow s.cfg.variant (s.buf ++ [b]))] }

/-- Step (S4): the byte that completes an invalid window. The strobe is the one output, `FrameError` the one error,
`last_good` stays, and the buffer is the longest proper suffix of the window at which a frame may still start:
exactly one byte is given up before the scan goes on (R146, R148). -/
def Obligations.CompletedInvalidWindowIsRejected : Prop :=
  ∀ (s : State) (b : Byte), BufNormal s.cfg.variant s.buf → (frameLen s.cfg.variant : Int) ≤ s.cfg.par.bufCap →
    (s.buf ++ [b]).length = frameLen s.cfg.variant → validWindow s.cfg.variant (s.buf ++ [b]) = false →
    ∃ rest c, (c = match s.cfg.variant with | .interval => RejectCause.cks | .parity => RejectCause.endByte) ∧
      rest <:+ (s.buf ++ [b]).drop 1 ∧ startMismatch s.cfg.variant rest = false ∧
      (∀ r, r <:+ (s.buf ++ [b]).drop 1 → startMismatch s.cfg.variant r = false → r.length ≤ rest.length) ∧
      exec (.fdFeed b) s = .next { s with
        buf := rest
        outputs := s.outputs ++ [.fdReject c]
        errors := s.errors ++ [.frameError c] }

/-- Steps (S1) and (S2): a byte that completes no window puts out nothing; the buffer is the longest suffix of the
bytes present at which a frame may still start, and waits (R146, R150). -/
def Obligations.IncompleteWindowWaits : Prop :=
  ∀ (s : State) (b : Byte), BufNormal s.cfg.variant s.buf → (frameLen s.cfg.variant : Int) ≤ s.cfg.par.bufCap →
    (s.buf ++ [b]).length < frameLen s.cfg.variant →
    ∃ rest, rest <:+ s.buf ++ [b] ∧ startMismatch s.cfg.variant rest = false ∧
      (∀ r, r <:+ s.buf ++ [b] → startMismatch s.cfg.variant r = false → r.length ≤ rest.length) ∧
      exec (.fdFeed b) s = .next { s with buf := rest }

/-- `start_mismatch` is R143's test of the bytes present against the start pattern, the normal form is R150's, written
out for each variant, and one `FD_FEED` leaves the buffer in it and puts out at most one thing (R143, R150, R151). -/
def Obligations.OneByteGivesAtMostOneOutput : Prop :=
  (∀ buf : List Byte, startMismatch .interval buf = true ↔
    (∃ x, buf[0]? = some x ∧ x ≠ 0x20) ∨ ∃ x, buf[1]? = some x ∧ x ≠ 0x40) ∧
  (∀ buf : List Byte, startMismatch .parity buf = true ↔ ∃ x, buf[0]? = some x ∧ x ≠ 0x0F) ∧
  (∀ buf : List Byte, BufNormal .interval buf ↔
    buf = [] ∨ buf = [0x20] ∨ ∃ r, buf = 0x20 :: 0x40 :: r ∧ buf.length ≤ 31) ∧
  (∀ buf : List Byte, BufNormal .parity buf ↔ buf = [] ∨ ∃ r, buf = 0x0F :: r ∧ buf.length ≤ 24) ∧
  (∀ (s : State) (b : Byte), BufNormal s.cfg.variant s.buf → (frameLen s.cfg.variant : Int) ≤ s.cfg.par.bufCap →
    ∃ s' os, exec (.fdFeed b) s = .next s' ∧ BufNormal s.cfg.variant s'.buf ∧
      s'.outputs = s.outputs ++ os ∧ os.length ≤ 1)

/-- The four feeding operations touch the buffer, `last_good`, the outputs and the errors, and nothing else. -/
def Obligations.FeedingTouchesOnlyTheDecoder : Prop :=
  ∀ (i : Instr) (s : State),
    ((∃ b, i = .fdFeed b) ∨ (∃ bs, i = .fdFeedBurst bs) ∨ (∃ ch ck, i = .iframe ch ck) ∨ (∃ ch b23, i = .pframe ch b23)) →
    ∃ s', exec i s = .next s' ∧
      s' = { s with buf := s'.buf, lastGood := s'.lastGood, outputs := s'.outputs, errors := s'.errors }

/-- `FD_FEED_BURST b0 .. bn` is the `FD_FEED`s of its bytes and nothing else, and the two frames are the bursts of
their bytes (R152, R131). The frames as operations, and `IFRAME` with any stored checksum where R131's always carries
R103's, are the model's reading of the opcode table (notes/assumptions/17.md). -/
def Obligations.BurstIsTheSequenceOfItsBytes : Prop :=
  (∀ s, exec (.fdFeedBurst []) s = .next s) ∧
  (∀ b bs s s1, exec (.fdFeed b) s = .next s1 → exec (.fdFeedBurst (b :: bs)) s = exec (.fdFeedBurst bs) s1) ∧
  (∀ ch ck s, exec (.iframe ch ck) s = exec (.fdFeedBurst
    ([0x20, 0x40] ++ ch.toList.flatMap (fun c => [BitVec.ofNat 8 c.toNat, BitVec.ofNat 8 (c.toNat / 256)]) ++
      [BitVec.ofNat 8 ck.toNat, BitVec.ofNat 8 (ck.toNat / 256)])) s) ∧
  (∀ ch b23 s, ∃ d : List Byte, d.length = 22 ∧
    (∀ k, (h : k < 16) → (leNat d >>> (11 * k)) % 2048 = ch[k].toNat) ∧
    exec (.pframe ch b23) s = exec (.fdFeedBurst ([0x0F] ++ d ++ [b23, 0x00])) s)

/-- Chunks do not matter: one burst of `a ++ b` is the burst of `a` and then the burst of `b` (R152). -/
def Obligations.ChunksDoNotMatter : Prop :=
  ∀ (a b : List Byte) (s : State), ∃ s1, exec (.fdFeedBurst a) s = .next s1 ∧
    exec (.fdFeedBurst (a ++ b)) s = exec (.fdFeedBurst b) s1

/-- The bytes fed since the buffer was empty are read as R153 reads the whole stream: the same frames, in the same
order, and the buffer is what is left where that reading stops. -/
def Obligations.FeedingIsTheWholeStreamReading : Prop :=
  ∀ (bs : List Byte) (s : State), s.buf = [] → (frameLen s.cfg.variant : Int) ≤ s.cfg.par.bufCap →
    ∃ s', exec (.fdFeedBurst bs) s = .next s' ∧
      s'.buf = (streamScan s.cfg.variant (bs.length + 1) bs).2 ∧
      framesOf s'.outputs = framesOf s.outputs ++ (streamScan s.cfg.variant (bs.length + 1) bs).1

/-- A packet with the checksum of R103, fed to an interval decoder with an empty buffer, is decoded: all fourteen
channels as they were sent, 15 and 16 absent, and nothing left over (R101, R103, R104, R146). The packet is fed as one
operation (notes/assumptions/17.md). -/
def Obligations.EveryValidPacketIsDecoded : Prop :=
  ∀ (ch : Vector U16 14) (ck : U16) (s : State), s.cfg.variant = .interval → 32 ≤ s.cfg.par.bufCap → s.buf = [] →
    ck.toNat = 65535 - (0x20 + 0x40 + (ch.toList.map fun c => c.toNat % 256 + c.toNat / 256).sum) →
    exec (.iframe ch ck) s = .next { s with
      lastGood := some (Vector.ofFn fun i => if h : i.val < 14 then some ch[i.val] else none)
      outputs := s.outputs ++ [.frame (Vector.ofFn fun i => if h : i.val < 14 then some ch[i.val] else none)] }

/-- A packet with any other checksum is rejected with one strobe and one `FrameError`, and no frame comes out; the
first byte is given up and the scan goes on to the first of the other 31 bytes at which a frame may start. The same for
25 bytes that begin with the parity start byte and end with another byte than `0x00`, with the other 24 bytes
(R103, R109, R144, R148, R149). `IFRAME` with a checksum other than R103's, which R131's never carries, is the model's
reading of the opcode table (notes/assumptions/17.md). -/
def Obligations.EveryWrongChecksumIsRejected : Prop :=
  (∀ (ch : Vector U16 14) (ck : U16) (s : State), s.cfg.variant = .interval → 32 ≤ s.cfg.par.bufCap → s.buf = [] →
    ck.toNat ≠ 65535 - (0x20 + 0x40 + (ch.toList.map fun c => c.toNat % 256 + c.toNat / 256).sum) →
    ∃ rest, rest <:+ (iframeBytes ch ck).drop 1 ∧ startMismatch .interval rest = false ∧
      (∀ r, r <:+ (iframeBytes ch ck).drop 1 → startMismatch .interval r = false → r.length ≤ rest.length) ∧
      exec (.iframe ch ck) s = .next { s with
        buf := rest
        outputs := s.outputs ++ [.fdReject .cks]
        errors := s.errors ++ [.frameError .cks] }) ∧
  (∀ (d : List Byte) (e : Byte) (s : State), s.cfg.variant = .parity → 25 ≤ s.cfg.par.bufCap → s.buf = [] →
    d.length = 23 → e ≠ 0x00 →
    ∃ rest, rest <:+ d ++ [e] ∧ startMismatch .parity rest = false ∧
      (∀ r, r <:+ d ++ [e] → startMismatch .parity r = false → r.length ≤ rest.length) ∧
      exec (.fdFeedBurst (0x0F :: d ++ [e])) s = .next { s with
        buf := rest
        outputs := s.outputs ++ [.fdReject .endByte]
        errors := s.errors ++ [.frameError .endByte] })

/-- A parity frame, fed to a parity decoder with an empty buffer, is decoded whatever byte 23 holds: all sixteen
channels as they were sent, zero-extended (R108, R109, R110). The frame is fed as one operation
(notes/assumptions/17.md). -/
def Obligations.EveryParityFrameIsDecoded : Prop :=
  ∀ (ch : Vector U11 16) (b23 : Byte) (s : State), s.cfg.variant = .parity → 25 ≤ s.cfg.par.bufCap → s.buf = [] →
    exec (.pframe ch b23) s = .next { s with
      lastGood := some (Vector.ofFn fun i => some (BitVec.ofNat 16 ch[i.val].toNat))
      outputs := s.outputs ++ [.frame (Vector.ofFn fun i => some (BitVec.ofNat 16 ch[i.val].toNat))] }

/-- The byte-level form of R110: each parity channel from the two or three data bytes it lies in. -/
def Obligations.ParityChannelFromItsBytes : Prop :=
  ∀ (w : List Byte) (k : Nat), w.length = 25 → 1 ≤ k → k ≤ 16 →
    parityChan w k =
      (((byteAt w (1 + 11 * (k - 1) / 8)).toNat + 256 * (byteAt w (1 + (11 * (k - 1) / 8 + 1))).toNat +
        65536 * (if 11 * (k - 1) / 8 + 2 ≤ 21 then (byteAt w (1 + (11 * (k - 1) / 8 + 2))).toNat else 0))
        >>> (11 * (k - 1) % 8)) % 2048

/-- The byte sum of a candidate that matches the header lies between 96 and 7236, the computed checksum is `0xFFFF - S`
and lies in `0xE3BB .. 0xFF9F`, and a candidate whose stored checksum lies outside that range is not valid (R105). -/
def Obligations.ChecksumLiesInItsRange : Prop :=
  ∀ (d w : List Byte), d.length = 30 → w = 0x20 :: 0x40 :: d →
    96 ≤ byteSum (w.take 30) ∧ byteSum (w.take 30) ≤ 7236 ∧ computedChecksum w = 0xFFFF - byteSum (w.take 30) ∧
    0xE3BB ≤ computedChecksum w ∧ computedChecksum w ≤ 0xFF9F ∧
    (storedChecksum w < 0xE3BB ∨ 0xFF9F < storedChecksum w → validWindow .interval w = false)

/-! ### ChannelMapper -/

/-- `normalize` of R182 for every configuration: in band the offset from the centre over the scale, limited to [-1, 1],
and 0 out of band. With the defaults `normalize_channel(1500)==0`, the two ends are maximal and opposite, between them the
value is exactly the offset over 500, and values outside [1000, 2000] are neutral (R194). -/
def Obligations.NormalizeEndsAndNeutral : Prop :=
  (∀ (p : MapperParams) (v : Int) (x : Q), 0 < p.fullScale → x = ((v : Q) - (p.center : Q)) / (p.fullScale : Q) →
    (v < p.saneLo ∨ p.saneHi < v → normalizeChannel p v = 0) ∧
    (p.saneLo ≤ v → v ≤ p.saneHi → normalizeChannel p v = max (-1) (min x 1))) ∧
  normalizeChannel MapperParams.default 1500 = 0 ∧ normalizeChannel MapperParams.default 1000 = -1 ∧
  normalizeChannel MapperParams.default 2000 = 1 ∧
  (∀ v : Int, 1000 ≤ v → v ≤ 2000 → normalizeChannel MapperParams.default v = ((v : Q) - 1500) / 500) ∧
  (∀ v, -1 ≤ normalizeChannel MapperParams.default v ∧ normalizeChannel MapperParams.default v ≤ 1) ∧
  (∀ v, v < 1000 ∨ 2000 < v → normalizeChannel MapperParams.default v = 0)

/-- Comparing the raw offset with `DEADZONE` is comparing `normalize(v)` with `DEADZONE / FULL_SCALE` (R183). -/
def Obligations.TriIsTheNormalizedComparison : Prop :=
  ∀ (p : MapperParams) (v : Int), 0 < p.fullScale → 0 ≤ p.deadzone → p.deadzone < p.fullScale →
    (tri p v = .positive ↔ (p.deadzone : Q) / (p.fullScale : Q) < normalizeChannel p v) ∧
    (tri p v = .negative ↔ normalizeChannel p v < -((p.deadzone : Q) / (p.fullScale : Q)))

/-- `CM_MAP` returns the Intent of R192, each field by its rule, and changes no state (R180, R185 to R190). That the query
records no `RangeError` is the model's choice (notes/assumptions/26.md). -/
def Obligations.MapReturnsTheIntent : Prop :=
  ∀ (cs : ChannelSet) (s : State), ∃ it : Intent,
    exec (.cmMap cs) s = .next { s with result := some (.intent it) } ∧
    (it.throttle = match raw cs s.cfg.par.mapper.chThrottle with
      | none => 0
      | some v => if tri s.cfg.par.mapper v = .neutral then 0 else 100 * |normalizeChannel s.cfg.par.mapper v|) ∧
    (it.direction = match readingTri s.cfg.par.mapper (raw cs s.cfg.par.mapper.chDir) with
      | .neutral => .idle
      | .positive => if s.cfg.par.mapper.dirInvert then .reverse else .forward
      | .negative => if s.cfg.par.mapper.dirInvert then .forward else .reverse) ∧
    (it.pivot = match readingTri s.cfg.par.mapper (raw cs s.cfg.par.mapper.chPivot) with
      | .neutral => .none
      | .positive => .right
      | .negative => .left) ∧
    (it.veer = match readingTri s.cfg.par.mapper (raw cs s.cfg.par.mapper.chVeer) with
      | .neutral => .none
      | .positive => .right
      | .negative => .left) ∧
    (it.brake = true ↔ ∃ v, raw cs s.cfg.par.mapper.chBrake = some v ∧ s.cfg.par.mapper.saneLo ≤ v ∧
      v ≤ s.cfg.par.mapper.saneHi ∧ v < s.cfg.par.motion.brakeLo) ∧
    it.mode = modeOf s.cfg.par.mapper cs ∧
    0 ≤ it.throttle ∧ it.throttle ≤ 100

/-- The mode is the table's entry with the least distance within the tolerance, the earliest among equals, and
`MODE_SAFE` when no entry is within it; with the default table it is as R190 lists it (R190). An absent mode channel is
unmatched (R181). -/
def Obligations.ModeIsTheNearestMatch : Prop :=
  (∀ (p : MapperParams) (cs : ChannelSet) (v : Int), raw cs p.chMode = some v →
    ((∀ r ∈ p.modeTable, p.modeTol < ((v - r.1).natAbs : Int)) ∧ modeOf p cs = p.modeSafe) ∨
    (∃ i r, p.modeTable[i]? = some r ∧ ((v - r.1).natAbs : Int) ≤ p.modeTol ∧ modeOf p cs = r.2 ∧
      ∀ (j : Nat) (r' : Int × Mode), p.modeTable[j]? = some r' →
        (v - r.1).natAbs < (v - r'.1).natAbs ∨ ((v - r.1).natAbs = (v - r'.1).natAbs ∧ i ≤ j))) ∧
  (∀ (p : MapperParams) (cs : ChannelSet), raw cs p.chMode = none → modeOf p cs = p.modeSafe) ∧
  (∀ (cs : ChannelSet) (v : Int), raw cs 7 = some v →
    modeOf MapperParams.default cs =
      if 980 ≤ v ∧ v ≤ 1020 then .normal else if 1980 ≤ v ∧ v ≤ 2020 then .verbose else .safe)

/-- `CM_RANGE` returns exactly the roles whose channel is absent or outside the sanity band, each once, and changes no
state (R191). That the set is a list, and that the query records no `RangeError`, are the model's choices
(notes/assumptions/13.md, 26.md). -/
def Obligations.RangeReturnsTheOutOfBandRoles : Prop :=
  ∀ (cs : ChannelSet) (s : State), ∃ rs : List Role,
    exec (.cmRange cs) s = .next { s with result := some (.roles rs) } ∧ rs.Nodup ∧
    ∀ r : Role, r ∈ rs ↔
      ¬ ∃ v, raw cs (match r with
          | .veer => s.cfg.par.mapper.chVeer
          | .dir => s.cfg.par.mapper.chDir
          | .throttle => s.cfg.par.mapper.chThrottle
          | .pivot => s.cfg.par.mapper.chPivot
          | .arm => s.cfg.par.mapper.chArm
          | .brake => s.cfg.par.mapper.chBrake) = some v ∧ s.cfg.par.mapper.saneLo ≤ v ∧ v ≤ s.cfg.par.mapper.saneHi

/-! ### MotionStateMachine -/

/-- A cycle in `WARMUP` counts the frame, leaves `WARMUP` with its event when the count is reached, and does nothing
else (R214). -/
def Obligations.WarmupOnlyCountsFrames : Prop :=
  ∀ (cs : ChannelSet) (t : Time) (ovr : PerMotor (Option Q)) (s : State), s.arm = .warmup →
    ((s.warmCnt : Int) + 1 < s.cfg.par.motion.warmupCount →
      exec (.msmCycle cs t ovr) s = .next { s with warmCnt := s.warmCnt + 1 }) ∧
    ((s.warmCnt : Int) + 1 ≥ s.cfg.par.motion.warmupCount →
      exec (.msmCycle cs t ovr) s = .next { s with
        warmCnt := s.warmCnt + 1
        arm := .idleUnarmed
        outputs := s.outputs ++ [.evArm .warmup .idleUnarmed] })

/-- `low_cnt` after a processed frame: one more, saturating at `ARM_COUNT`, if the throttle is in band and within
`ARM_BAND` of the centre, else 0 (R215). -/
def Obligations.LowSamplesAreCounted : Prop :=
  ∀ (cs : ChannelSet) (t : Time) (ovr : PerMotor (Option Q)) (s : State), s.arm ≠ .warmup →
    1 ≤ s.cfg.par.motion.armCount →
    ∃ s', exec (.msmCycle cs t ovr) s = .next s' ∧
      ((∃ v, raw cs s.cfg.par.mapper.chThrottle = some v ∧ s.cfg.par.mapper.saneLo ≤ v ∧ v ≤ s.cfg.par.mapper.saneHi ∧
          |v - s.cfg.par.mapper.center| ≤ s.cfg.par.motion.armBand) →
        (s'.lowCnt : Int) = min ((s.lowCnt : Int) + 1) s.cfg.par.motion.armCount) ∧
      ((¬ ∃ v, raw cs s.cfg.par.mapper.chThrottle = some v ∧ s.cfg.par.mapper.saneLo ≤ v ∧
          v ≤ s.cfg.par.mapper.saneHi ∧ |v - s.cfg.par.mapper.center| ≤ s.cfg.par.motion.armBand) →
        s'.lowCnt = 0)

/-- Arming needs the switch and the low-throttle count on the same frame; unarming needs the switch off; nothing else
moves the arm state (R216, R217, R218). -/
def Obligations.ArmingAndUnarming : Prop :=
  ∀ (cs : ChannelSet) (t : Time) (ovr : PerMotor (Option Q)) (s : State), s.arm ≠ .warmup →
    ∃ s', exec (.msmCycle cs t ovr) s = .next s' ∧
      (s'.arm = .armed ↔
        (∃ v, raw cs s.cfg.par.mapper.chArm = some v ∧ s.cfg.par.mapper.saneLo ≤ v ∧ v ≤ s.cfg.par.mapper.saneHi ∧
          s.cfg.par.mapper.deadzone < v - s.cfg.par.mapper.center) ∧
        (s.arm = .armed ∨ s.cfg.par.motion.armCount ≤ (s'.lowCnt : Int))) ∧
      (s'.arm ≠ .armed → s'.arm = .idleUnarmed)

/-- The brake flag: engaged below `BRAKE_LO`, released above `BRAKE_HI`, held between them and outside the sanity band
(R220). -/
def Obligations.BrakeHysteresis : Prop :=
  ∀ (cs : ChannelSet) (t : Time) (ovr : PerMotor (Option Q)) (s : State), s.arm ≠ .warmup →
    s.cfg.par.motion.brakeLo ≤ s.cfg.par.motion.brakeHi →
    ∃ s', exec (.msmCycle cs t ovr) s = .next s' ∧
      (∀ v, raw cs s.cfg.par.mapper.chBrake = some v → s.cfg.par.mapper.saneLo ≤ v → v ≤ s.cfg.par.mapper.saneHi →
        (v < s.cfg.par.motion.brakeLo → s'.brake = true) ∧ (v > s.cfg.par.motion.brakeHi → s'.brake = false) ∧
        (s.cfg.par.motion.brakeLo ≤ v → v ≤ s.cfg.par.motion.brakeHi → s'.brake = s.brake)) ∧
      ((¬ ∃ v, raw cs s.cfg.par.mapper.chBrake = some v ∧ s.cfg.par.mapper.saneLo ≤ v ∧ v ≤ s.cfg.par.mapper.saneHi) →
        s'.brake = s.brake)

/-- The command and the actuation shadow of each motor after a processed frame: the direction of R222 and R223, the
duty request of R224 behind the three gates of R225, the brake flag; a motor the tuner owns keeps both (R227). -/
def Obligations.MotorCommandsFollowTheRules : Prop :=
  ∀ (cs : ChannelSet) (t : Time) (ovr : PerMotor (Option Q)) (s : State) (m : Motor), s.arm ≠ .warmup →
    ∃ s', exec (.msmCycle cs t ovr) s = .next s' ∧
      (s.tuneOwner = some m → s'.cmd.get m = s.cmd.get m ∧ s'.act.get m = s.act.get m) ∧
      (s.tuneOwner ≠ some m → ∃ it, it = cmMap s.cfg cs ∧
        s'.cmd.get m =
          { speed := if s'.arm = .armed ∧ s'.brake = false ∧ (it.direction ≠ .idle ∨ it.pivot ≠ .none) then
              (match ovr.get m with | some d => max 0 (min d 1) | none => it.throttle / 100) else 0
            direction := if (it.pivot = .left ∧ m = .L) ∨ (it.pivot = .right ∧ m = .R) then
              (if it.direction = .reverse then .forward else .reverse)
              else (if it.direction = .reverse then .reverse else .forward)
            brake := s'.brake } ∧
        s'.act.get m =
          { duty := some (s'.cmd.get m).speed, dir := some (s'.cmd.get m).direction, brake := some s'.brake })

/-- What a processed cycle puts out, in order: the range event, the Intent, the arm transition, the brake, the calls of
the left and then the right motor (none for a motor the tuner owns, `set_brake` only on a change), the advisory; and
the errors it raises (R211, R212, R221, R226, R227, R228, R381). -/
def Obligations.MotionCycleOutputsInOrder : Prop :=
  ∀ (cs : ChannelSet) (t : Time) (ovr : PerMotor (Option Q)) (s : State), s.arm ≠ .warmup →
    ∃ (s' : State) (it : Intent) (rs : List Role) (calls : Motor → List Output) (asked : Bool),
      exec (.msmCycle cs t ovr) s = .next s' ∧ it = cmMap s.cfg cs ∧ rs = cmRange s.cfg cs ∧
      (∀ m, calls m = if s.tuneOwner = some m then [] else
        [.setDirection m (decide ((s'.cmd.get m).direction = .forward)), .setDuty m (s'.cmd.get m).speed] ++
        (if (s.act.get m).brake = some s'.brake then [] else [.setBrake m s'.brake])) ∧
      (asked = true ↔ s'.arm ≠ .armed ∧ (it.direction ≠ .idle ∨ it.pivot ≠ .none) ∧
        ∃ m, 0 < (match ovr.get m with | some d => d | none => it.throttle)) ∧
      s'.outputs = s.outputs ++ (if rs = [] then [] else [.evRange rs]) ++
        (if s.prevIntent = some it ∧ it.mode ≠ s.cfg.par.mapper.modeVerbose then [] else [.evIntent it]) ++
        (if s'.arm = s.arm then [] else [.evArm s.arm s'.arm]) ++
        (if s'.brake = s.brake then [] else [.evBrake s'.brake]) ++ calls .L ++ calls .R ++
        (if asked = true ∧ (∀ l, s.lastAdv = some l → s.cfg.par.motion.advInterval ≤ t - l) then [.evNotArmed t] else []) ∧
      s'.errors = s.errors ++ (if rs = [] then [] else [.rangeError rs]) ++ (if asked then [.notArmedError] else []) ∧
      s'.prevIntent = (if s.prevIntent = some it ∧ it.mode ≠ s.cfg.par.mapper.modeVerbose then s.prevIntent else some it) ∧
      s'.lastAdv = (if asked = true ∧ (∀ l, s.lastAdv = some l → s.cfg.par.motion.advInterval ≤ t - l) then some t
        else s.lastAdv)

/-- A processed cycle touches the arm state, `low_cnt`, `brake`, `prev_intent`, `last_adv`, `cmd`, `act`, the outputs
and the errors, and nothing else (R210). -/
def Obligations.MotionCycleFrame : Prop :=
  ∀ (cs : ChannelSet) (t : Time) (ovr : PerMotor (Option Q)) (s : State), s.arm ≠ .warmup →
    ∃ s', exec (.msmCycle cs t ovr) s = .next s' ∧
      s' = { s with arm := s'.arm, lowCnt := s'.lowCnt, brake := s'.brake, prevIntent := s'.prevIntent,
                    lastAdv := s'.lastAdv, cmd := s'.cmd, act := s'.act, outputs := s'.outputs, errors := s'.errors }

/-- The arm state moves along `WARMUP → IDLE_UNARMED → ARMED → IDLE_UNARMED` only (R213). -/
def Obligations.ArmTransitionGraph : Prop :=
  ∀ (cs : ChannelSet) (t : Time) (ovr : PerMotor (Option Q)) (s : State),
    ∃ s', exec (.msmCycle cs t ovr) s = .next s' ∧
      (s'.arm = s.arm ∨ (s.arm = .warmup ∧ s'.arm = .idleUnarmed) ∨ (s.arm = .idleUnarmed ∧ s'.arm = .armed) ∨
        (s.arm = .armed ∧ s'.arm = .idleUnarmed))

/-! ### The control loop -/

/-- `LOOP_POLL`: an empty poll does nothing; each byte is fed, and a frame it completes gets its `MSM_CYCLE` before the
next byte is fed (R350). -/
def Obligations.PollRunsACycleForEachFrame : Prop :=
  (∀ t ovr s, exec (.loopPoll [] t ovr) s = .next s) ∧
  (∀ b bs t ovr s s1 cs os, exec (.fdFeed b) s = .next s1 → s1.outputs = s.outputs ++ .frame cs :: os →
    ∃ s2 s3, exec (.msmCycle cs t ovr) s1 = .next s2 ∧ exec (.loopPoll bs t ovr) s2 = .next s3 ∧
      exec (.loopPoll (b :: bs) t ovr) s = .next s3) ∧
  (∀ b bs t ovr s s1 os, exec (.fdFeed b) s = .next s1 → s1.outputs = s.outputs ++ os → (∀ cs, .frame cs ∉ os) →
    ∃ s3, exec (.loopPoll bs t ovr) s1 = .next s3 ∧ exec (.loopPoll (b :: bs) t ovr) s = .next s3)

/-! ### PulseRateEstimator -/

/-- `PRE_SAMPLE`: with time elapsed the rate is `rnd(delta / elapsed)`; otherwise `SampleTimingError`, the previous
rate is returned and nothing is written (R260). -/
def Obligations.SampleGivesTheRate : Prop :=
  ∀ (m : Motor) (delta : Nat) (elapsed : Q) (s : State),
    (elapsed ≤ 0 → exec (.preSample m delta elapsed) s = .next { s with
      errors := s.errors ++ [.sampleTimingError], result := some (.number (s.pre.get m).rate) }) ∧
    (0 < elapsed → exec (.preSample m delta elapsed) s = .next { s with
      pre := s.pre.set m { s.pre.get m with rate := rnd s.cfg (delta / elapsed) }
      result := some (.number (rnd s.cfg (delta / elapsed))) })

/-- `PRE_TICK`: the first reading only becomes the reference; a reading whose count or time did not advance raises
`SampleTimingError` and becomes the reference with the rate kept; any other gives the rate of the differences (R264). -/
def Obligations.TickGivesTheRateOfTheDifferences : Prop :=
  ∀ (m : Motor) (count : Nat) (t : Time) (s : State),
    ((s.pre.get m).lastCount = none → exec (.preTick m count t) s = .next { s with
      pre := s.pre.set m ⟨(s.pre.get m).rate, some count, some t⟩
      result := some (.number (s.pre.get m).rate) }) ∧
    (∀ c l, (s.pre.get m).lastCount = some c → (s.pre.get m).lastT = some l → count < c ∨ t ≤ l →
      exec (.preTick m count t) s = .next { s with
        pre := s.pre.set m ⟨(s.pre.get m).rate, some count, some t⟩
        errors := s.errors ++ [.sampleTimingError]
        result := some (.number (s.pre.get m).rate) }) ∧
    (∀ c l, (s.pre.get m).lastCount = some c → (s.pre.get m).lastT = some l → c ≤ count → l < t →
      exec (.preTick m count t) s = .next { s with
        pre := s.pre.set m ⟨rnd s.cfg (((count - c : Nat) : Q) / (t - l)), some count, some t⟩
        result := some (.number (rnd s.cfg (((count - c : Nat) : Q) / (t - l)))) })

/-- `PRE_RPM` returns `rnd(rate / PPR[m] · 60)` and changes no state (R268). -/
def Obligations.RpmQuery : Prop :=
  ∀ (m : Motor) (rate : Q) (s : State), exec (.preRpm m rate) s = .next { s with
    result := some (.number (rnd s.cfg (rate / (s.cfg.par.ppr.get m : Q) * 60))) }

/-! ### PIDController -/

/-- `PID_UPDATE` with a positive time step, on a motor the tuner does not own (R282, R284 to R287). -/
def Obligations.PidUpdateWithATimeStep : Prop :=
  ∀ (m : Motor) (meas : Q) (t tp : Time) (s : State) (p : PidRegs) (e iNew u : Q),
    s.tuneOwner ≠ some m → p = s.pid.get m → p.tPrev = some tp → tp < t →
    e = p.sp - meas → iNew = rnd s.cfg (p.integ + e * (t - tp)) →
    u = rnd s.cfg (p.kp * e + p.ki * iNew + p.kd * ((e - p.ePrev) / (t - tp))) →
    exec (.pidUpdate m meas t) s = .next { s with
      pid := s.pid.set m { p with
        integ := if s.cfg.par.antiWindup = true ∧ (u < p.outMin ∨ p.outMax < u) then p.integ else iNew
        ePrev := e
        tPrev := some t
        lastU := u
        lastOut := if u < p.outMin then p.outMin else if p.outMax < u then p.outMax else u }
      result := some (.number (if u < p.outMin then p.outMin else if p.outMax < u then p.outMax else u)) }

/-- `PID_UPDATE` without a positive time step: no integral advance and no derivative; the other registers are written
(R282, R283). -/
def Obligations.PidUpdateWithoutATimeStep : Prop :=
  ∀ (m : Motor) (meas : Q) (t : Time) (s : State) (p : PidRegs) (e u : Q),
    s.tuneOwner ≠ some m → p = s.pid.get m → (∀ tp, p.tPrev = some tp → t ≤ tp) →
    e = p.sp - meas → u = rnd s.cfg (p.kp * e + p.ki * p.integ) →
    exec (.pidUpdate m meas t) s = .next { s with
      pid := s.pid.set m { p with
        ePrev := e
        tPrev := some t
        lastU := u
        lastOut := if u < p.outMin then p.outMin else if p.outMax < u then p.outMax else u }
      result := some (.number (if u < p.outMin then p.outMin else if p.outMax < u then p.outMax else u)) }

/-- With `Kp=1, Ki=0, Kd=0` every update's output before clamping is exactly the error, whatever the time step (R289),
rounded by `NUM_RND` where that is not the identity. -/
def Obligations.ProportionalOnlyGivesTheError : Prop :=
  ∀ (m : Motor) (meas : Q) (t : Time) (s : State), s.tuneOwner ≠ some m →
    (s.pid.get m).kp = 1 → (s.pid.get m).ki = 0 → (s.pid.get m).kd = 0 →
    ∃ s', exec (.pidUpdate m meas t) s = .next s' ∧
      (s'.pid.get m).lastU = rnd s.cfg ((s.pid.get m).sp - meas) ∧
      (s.cfg.par.numRnd = .exact → (s'.pid.get m).lastU = (s.pid.get m).sp - meas) ∧
      (s'.pid.get m).lastOut = clamp (s'.pid.get m).lastU (s.pid.get m).outMin (s.pid.get m).outMax

/-- The host's PID operations on the motor the tuner owns are refused: no state changes, and `PID_UPDATE` returns
`pid[m].last_out` (R298). -/
def Obligations.HostPidOperationsAreRefusedOnTheOwnedMotor : Prop :=
  ∀ (m : Motor) (s : State), s.tuneOwner = some m →
    (∀ meas t, exec (.pidUpdate m meas t) s = .next { s with result := some (.number (s.pid.get m).lastOut) }) ∧
    exec (.pidReset m) s = .next s ∧
    (∀ kp ki kd, exec (.pidSetGains m kp ki kd) s = .next s) ∧
    (∀ sp, exec (.pidSetSetpoint m sp) s = .next s) ∧
    (∀ lo hi, exec (.pidSetBounds m lo hi) s = .next s)

/-- The register writes on a motor the tuner does not own: `PID_RESET` clears the integral, the previous error and the
previous time (R290, R291); a gain write resets as well (R292); a setpoint write does not (R294); bounds are written
only in order, else refused (R296). -/
def Obligations.PidRegisterWrites : Prop :=
  ∀ (m : Motor) (s : State) (p : PidRegs), s.tuneOwner ≠ some m → p = s.pid.get m →
    exec (.pidReset m) s = .next { s with pid := s.pid.set m { p with integ := 0, ePrev := 0, tPrev := none } } ∧
    (∀ kp ki kd, exec (.pidSetGains m kp ki kd) s = .next { s with
      pid := s.pid.set m { p with kp := kp, ki := ki, kd := kd, integ := 0, ePrev := 0, tPrev := none } }) ∧
    (∀ sp, exec (.pidSetSetpoint m sp) s = .next { s with pid := s.pid.set m { p with sp := sp } }) ∧
    (∀ lo hi, lo ≤ hi → exec (.pidSetBounds m lo hi) s = .next { s with
      pid := s.pid.set m { p with outMin := lo, outMax := hi } }) ∧
    (∀ lo hi, hi < lo → exec (.pidSetBounds m lo hi) s = .next s)

/-! ### AutoTuner -/

/-- `AT_START` on an idle tuner: the gains and the setpoint are saved, the motor is acquired, the first trial begins
with `KP_START`, and the motor is put forward with duty 0 and the brake released (R310, R313). -/
def Obligations.StartBeginsTheFirstTrial : Prop :=
  ∀ (m : Motor) (sp : Q) (t : Time) (s : State) (p : PidRegs), s.tuner.phase = .idle → p = s.pid.get m →
    exec (.atStart m sp t) s = .next { s with
      tuner := { phase := .running, motor := m, sp := sp, k := 0, trialStart := t, sweepStart := t, crossCnt := 0,
                 c1 := none, c2 := none, c3 := none, lastSign := .zero, saved := ⟨p.kp, p.ki, p.kd, p.sp⟩,
                 result := none, cancel := false }
      tuneOwner := some m
      pid := s.pid.set m { p with
        kp := s.cfg.par.tuner.kpStart, ki := 0, kd := 0, sp := sp, integ := 0, ePrev := 0, tPrev := none }
      cmd := s.cmd.set m ⟨0, .forward, false⟩
      act := s.act.set m ⟨some 0, some .forward, some false⟩
      outputs := s.outputs ++ [.setDirection m true, .setDuty m 0, .setBrake m false] }

/-- The tuner's refusals, and `AT_CANCEL`: a start while running and a sample while idle change nothing; a cancel sets
the flag while running and does nothing while idle (R311, R314, R330). -/
def Obligations.TunerRefusalsAndCancel : Prop :=
  (∀ m sp t s, s.tuner.phase = .running → exec (.atStart m sp t) s = .next s) ∧
  (∀ rate t s, s.tuner.phase = .idle → exec (.atSample rate t) s = .next s) ∧
  (∀ s, s.tuner.phase = .running → exec .atCancel s = .next { s with tuner := { s.tuner with cancel := true } }) ∧
  (∀ s, s.tuner.phase = .idle → exec .atCancel s = .next s)

/-- A sample that sees the cancel flag does not run: it puts the motor in the safe state, restores the saved gains and
setpoint, and releases the motor (R322, R328). -/
def Obligations.CancelledSampleAborts : Prop :=
  ∀ (rate : Q) (t : Time) (s : State) (m : Motor), s.tuner.phase = .running → s.tuner.cancel = true → m = s.tuner.motor →
    exec (.atSample rate t) s = .next { s with
      cmd := s.cmd.set m ⟨0, .forward, true⟩
      act := s.act.set m { s.act.get m with duty := some 0, brake := some true }
      pid := s.pid.set m { s.pid.get m with
        kp := s.tuner.saved.kp, ki := s.tuner.saved.ki, kd := s.tuner.saved.kd, sp := s.tuner.saved.sp,
        integ := 0, ePrev := 0, tPrev := none }
      tuner := { s.tuner with result := some .aborted, cancel := false, phase := .idle }
      tuneOwner := none
      outputs := s.outputs ++ [.setDuty m 0, .setBrake m true, .evTuneResult m .aborted] }

/-- Which samples record a crossing, and what they do to the crossing registers (R318). -/
def Obligations.CrossingRule : Prop :=
  ∀ (e : Q) (t : Time) (r : TunerRegs),
    (e = 0 → recordCrossing e t r = r) ∧
    (∀ g, e ≠ 0 → g = (if 0 < e then Sgn.pos else Sgn.neg) →
      (g ≠ r.lastSign → (∀ c, r.c1 = some c → c < t) →
        recordCrossing e t r = { r with c3 := r.c2, c2 := r.c1, c1 := some t, crossCnt := r.crossCnt + 1, lastSign := g }) ∧
      ((g = r.lastSign ∨ ∃ c, r.c1 = some c ∧ t ≤ c) → recordCrossing e t r = { r with lastSign := g }))

/-- A sample that ends neither the trial nor the sweep: one PID step on the owned motor, its output limited to [0, 1] as
the duty, and the crossing rule (R314, R316). -/
def Obligations.SampleInsideATrial : Prop :=
  ∀ (rate : Q) (t : Time) (s : State) (m : Motor) (p : PidRegs) (r : TunerRegs) (du : Q),
    s.tuner.phase = .running → s.tuner.cancel = false → m = s.tuner.motor → p = pidStep s.cfg rate t (s.pid.get m) →
    r = recordCrossing ((s.pid.get m).sp - rate) t s.tuner → du = clamp p.lastOut 0 1 →
    (r.crossCnt : Int) < s.cfg.par.tuner.minCrossings → t - s.tuner.sweepStart < s.cfg.par.tuner.sweepBudget →
    t - s.tuner.trialStart < s.cfg.par.tuner.trialDuration →
    exec (.atSample rate t) s = .next { s with
      pid := s.pid.set m p
      cmd := s.cmd.set m ⟨du, .forward, false⟩
      act := s.act.set m { s.act.get m with duty := some du }
      tuner := r
      outputs := s.outputs ++ [.setDuty m du] }

/-- The sample that ends a trial without ending the sweep: the next trial begins at the same time with the next gain
and the crossings cleared, and the duty just sent stands (R313, R320). -/
def Obligations.TrialEndBeginsTheNextTrial : Prop :=
  ∀ (rate : Q) (t : Time) (s : State) (m : Motor) (p : PidRegs) (r : TunerRegs) (du : Q),
    s.tuner.phase = .running → s.tuner.cancel = false → m = s.tuner.motor → p = pidStep s.cfg rate t (s.pid.get m) →
    r = recordCrossing ((s.pid.get m).sp - rate) t s.tuner → du = clamp p.lastOut 0 1 →
    (r.crossCnt : Int) < s.cfg.par.tuner.minCrossings → t - s.tuner.sweepStart < s.cfg.par.tuner.sweepBudget →
    s.cfg.par.tuner.trialDuration ≤ t - s.tuner.trialStart →
    s.cfg.par.tuner.kpStart + ((s.tuner.k + 1 : Nat) : Q) * s.cfg.par.tuner.kpStep ≤ s.cfg.par.tuner.kpEnd →
    exec (.atSample rate t) s = .next { s with
      pid := s.pid.set m { p with
        kp := s.cfg.par.tuner.kpStart + ((s.tuner.k + 1 : Nat) : Q) * s.cfg.par.tuner.kpStep
        ki := 0, kd := 0, sp := s.tuner.sp, integ := 0, ePrev := 0, tPrev := none }
      cmd := s.cmd.set m ⟨du, .forward, false⟩
      act := s.act.set m { s.act.get m with duty := some du }
      tuner := { s.tuner with
        k := s.tuner.k + 1, trialStart := t, crossCnt := 0, c1 := none, c2 := none, c3 := none, lastSign := .zero }
      outputs := s.outputs ++ [.setDuty m du] }

/-- The sample that records the last required crossing: `Ku` is the trial's gain, `Pu` the time between the last and the
third-to-last crossing, the Ziegler-Nichols gains are written, the setpoint is restored, the motor is put in the safe
state and released (R324, R328). -/
def Obligations.LastCrossingTunesTheGains : Prop :=
  ∀ (rate : Q) (t : Time) (s : State) (m : Motor) (p : PidRegs) (r : TunerRegs) (a c du kp ki kd : Q) (res : TuneResult),
    s.tuner.phase = .running → s.tuner.cancel = false → m = s.tuner.motor → p = pidStep s.cfg rate t (s.pid.get m) →
    r = recordCrossing ((s.pid.get m).sp - rate) t s.tuner → du = clamp p.lastOut 0 1 →
    s.cfg.par.tuner.minCrossings ≤ (r.crossCnt : Int) → r.c1 = some a → r.c3 = some c →
    kp = rnd s.cfg (s.cfg.par.tuner.znKp * p.kp) → ki = rnd s.cfg (s.cfg.par.tuner.znKiNum * kp / (a - c)) →
    kd = rnd s.cfg (kp * (a - c) / s.cfg.par.tuner.znKdDen) → res = .success p.kp (a - c) kp ki kd →
    exec (.atSample rate t) s = .next { s with
      pid := s.pid.set m { p with
        kp := kp, ki := ki, kd := kd, sp := s.tuner.saved.sp, integ := 0, ePrev := 0, tPrev := none }
      cmd := s.cmd.set m ⟨0, .forward, true⟩
      act := s.act.set m { s.act.get m with duty := some 0, brake := some true }
      tuner := { r with result := some res, cancel := false, phase := .idle }
      tuneOwner := none
      outputs := s.outputs ++ [.setDuty m du, .setDuty m 0, .setBrake m true, .evOscDetected m p.kp (a - c),
        .evTuneResult m res] }

/-- The sample at which the budget is spent, or the last trial ends, without enough crossings: `TuningFailure`, the
saved gains and setpoint back, the motor in the safe state and released (R326, R328). -/
def Obligations.SweepFailureRestoresTheGains : Prop :=
  ∀ (rate : Q) (t : Time) (s : State) (m : Motor) (p : PidRegs) (r : TunerRegs) (du : Q) (k' : Nat),
    s.tuner.phase = .running → s.tuner.cancel = false → m = s.tuner.motor → p = pidStep s.cfg rate t (s.pid.get m) →
    r = recordCrossing ((s.pid.get m).sp - rate) t s.tuner → du = clamp p.lastOut 0 1 →
    (r.crossCnt : Int) < s.cfg.par.tuner.minCrossings →
    ((s.cfg.par.tuner.sweepBudget ≤ t - s.tuner.sweepStart ∧ k' = s.tuner.k) ∨
     (t - s.tuner.sweepStart < s.cfg.par.tuner.sweepBudget ∧
      s.cfg.par.tuner.trialDuration ≤ t - s.tuner.trialStart ∧
      s.cfg.par.tuner.kpEnd < s.cfg.par.tuner.kpStart + ((s.tuner.k + 1 : Nat) : Q) * s.cfg.par.tuner.kpStep ∧
      k' = s.tuner.k + 1)) →
    exec (.atSample rate t) s = .next { s with
      pid := s.pid.set m { p with
        kp := s.tuner.saved.kp, ki := s.tuner.saved.ki, kd := s.tuner.saved.kd, sp := s.tuner.saved.sp,
        integ := 0, ePrev := 0, tPrev := none }
      cmd := s.cmd.set m ⟨0, .forward, true⟩
      act := s.act.set m { s.act.get m with duty := some 0, brake := some true }
      tuner := { r with k := k', result := some .failure, cancel := false, phase := .idle }
      tuneOwner := none
      outputs := s.outputs ++ [.setDuty m du, .setDuty m 0, .setBrake m true, .evTuneResult m .failure]
      errors := s.errors ++ [.tuningFailure] }

/-- A success never has a zero or negative period: in a safe state a sample that tunes reports `Pu > 0` (R318, R324). -/
def Obligations.TunedPeriodIsPositive : Prop :=
  ∀ (rate : Q) (t : Time) (s s' : State) (ku pu kp ki kd : Q), SafeState s → s.tuner.phase = .running →
    exec (.atSample rate t) s = .next s' → s'.tuner.result = some (.success ku pu kp ki kd) → s.tuner.result = none →
    0 < pu
end

