-- ==== Sys2Proof/Laws/Decode.lean ====
section
/-! SUPPORT. What the operand decoders do with encoded operands: each reads back exactly what its encoder wrote and
leaves the bytes behind it alone. -/

namespace Sys2Proof

/-- `p` reads back `e a` whatever stands behind it. -/
def ReadsBack {α : Type} (p : Dec α) (e : α → List Byte) (a : α) : Prop :=
  ∀ rest, p (e a ++ rest) = .ok (a, rest)

/-! ### Operations -/

/-- Every row but that of the reserved code names an operation (R127). -/
@[simp] theorem namesOperation_iff {i : Instr} : i.namesOperation = true ↔ i ≠ .reservedF := by
  cases i <;> simp [Instr.namesOperation, Instr.opCode]

/-! ### Combinators -/

@[simp] theorem decPure_apply {α : Type} (a : α) (bs : List Byte) : decPure a bs = .ok (a, bs) := rfl

@[simp] theorem decIgnoreRest_apply (i : Instr) (bs : List Byte) : decIgnoreRest i bs = .ok (i, []) := rfl

@[simp] theorem decFail_apply {α : Type} (e : DecodeError) (bs : List Byte) :
    (decFail e : Dec α) bs = .error e := rfl

/-- After a decoder that succeeds, the rest of the sequence runs on what it left. -/
theorem decBind_ok {α β : Type} {p : Dec α} {f : α → Dec β} {bs r : List Byte} {a : α} (h : p bs = .ok (a, r)) :
    decBind p f bs = f a r := by
  simp [decBind, h]

/-- A sequence succeeds only if its first decoder does, and then with what the rest makes of it. -/
theorem decBind_eq_ok {α β : Type} {p : Dec α} {f : α → Dec β} {bs : List Byte} {x : β × List Byte}
    (h : decBind p f bs = .ok x) : ∃ a r, p bs = .ok (a, r) ∧ f a r = .ok x := by
  unfold decBind at h
  split at h
  · cases h
  · exact ⟨_, _, ‹_›, h⟩

/-- A decoder that reads back an operand, then the rest of the sequence. -/
theorem ReadsBack.bind {α β : Type} {p : Dec α} {e : α → List Byte} {a : α} (h : ReadsBack p e a) (f : α → Dec β)
    (rest : List Byte) : decBind p f (e a ++ rest) = f a rest :=
  decBind_ok (h rest)

/-- The whole-request decoder on bytes its operand decoder uses up. -/
theorem decWhole_of_ok {p : Dec Instr} {bs : List Byte} {i : Instr} (h : p bs = .ok (i, [])) :
    decWhole p bs = .ok i := by
  simp [decWhole, h]

/-- What a whole-request decoder accepts, its operand decoder accepts. -/
theorem decWhole_eq_ok {p : Dec Instr} {bs : List Byte} {i : Instr} (h : decWhole p bs = .ok i) :
    ∃ r, p bs = .ok (i, r) := by
  unfold decWhole at h
  split at h
  · cases h
  · split at h
    · cases h; exact ⟨_, ‹_›⟩
    · cases h

/-! ### Numbers -/

/-- A `Nat` with enough steps is read back. -/
theorem decNat_encNatUpTo (f : Nat) : ∀ n, n ≤ f → ∀ rest, decNat (encNatUpTo f n ++ rest) = .ok (n, rest) := by
  induction f with
  | zero =>
    intro n hn rest
    obtain rfl : n = 0 := by omega
    simp [encNatUpTo, decNat]
  | succ f ih =>
    intro n hn rest
    unfold encNatUpTo
    split
    · have : n % 256 = n := by omega
      simp only [List.cons_append, List.nil_append, decNat, BitVec.toNat_ofNat]
      norm_num [this, ‹n < 128›]
    · have h1 : (128 + n % 128) % 256 = 128 + n % 128 := by omega
      have h2 := ih (n / 128) (by omega) rest
      simp only [List.cons_append, decNat, BitVec.toNat_ofNat]
      norm_num [h1, h2]
      omega

theorem readsBack_nat (n : Nat) : ReadsBack decNat encNat n := decNat_encNatUpTo n n le_rfl

@[simp] theorem intOfCode_codeOfInt (z : Int) : intOfCode (codeOfInt z) = z := by
  unfold intOfCode codeOfInt
  split <;> split <;> omega

theorem readsBack_int (z : Int) : ReadsBack decInt encInt z := by
  intro rest
  simp [decInt, encInt, (readsBack_nat _).bind]

theorem readsBack_q (q : Q) : ReadsBack decQ encQ q := by
  intro rest
  have h : q.den - 1 + 1 = q.den := Nat.sub_add_cancel q.den_pos
  simp [decQ, encQ, List.append_assoc, (readsBack_int _).bind, (readsBack_nat _).bind, h, Rat.mkRat_self]

theorem readsBack_time {t : Time} (h : timeOk t = true) : ReadsBack decTime encQ t := by
  intro rest
  simp [decTime, (readsBack_q _).bind, h]

/-- A decoded `Time` is not negative (R19). -/
theorem decTime_timeOk {bs r : List Byte} {t : Time} (h : decTime bs = .ok (t, r)) : timeOk t = true := by
  obtain ⟨q, r', -, h2⟩ := decBind_eq_ok h
  split at h2
  · cases h2; assumption
  · cases h2

/-! ### Small operands -/

theorem readsBack_byte (b : Byte) : ReadsBack decByte (fun b => [b]) b := fun _ => rfl

theorem readsBack_bool (b : Bool) : ReadsBack decBool encBool b := by
  intro rest
  cases b <;> simp [decBool, encBool, decBind, decByte]

theorem readsBack_motor (m : Motor) : ReadsBack decMotor encMotor m := by
  intro rest
  cases m <;> simp [decMotor, encMotor, decBind, decByte]

theorem readsBack_variant (v : Option Variant) : ReadsBack decVariant encVariant v := by
  intro rest
  rcases v with _ | _ | _ <;> simp [decVariant, encVariant, decBind, decByte]

theorem readsBack_mode (m : Mode) : ReadsBack decMode encMode m := by
  intro rest
  cases m <;> simp [decMode, encMode, (readsBack_nat _).bind]

theorem readsBack_numRnd (n : NumRnd) : ReadsBack decNumRnd encNumRnd n := by
  intro rest
  cases n <;> simp [decNumRnd, encNumRnd, (readsBack_nat _).bind]

/-! ### Little-endian fields (20_memory.md R72) -/

/-- The bytes of a number give it back, as far as they reach. -/
theorem leNat_leBytes (k : Nat) : ∀ n, leNat (leBytes k n) = n % 256 ^ k := by
  induction k with
  | zero => intro n; simp [leBytes, leNat, Nat.mod_one]
  | succ k ih =>
    intro n
    rw [leBytes, leNat, ih, BitVec.toNat_ofNat, Nat.pow_succ' (n := k), Nat.mod_mul]

@[simp] theorem leBytes_length (k : Nat) : ∀ n, (leBytes k n).length = k := by
  induction k with
  | zero => intro n; rfl
  | succ k ih => intro n; simp [leBytes, ih]

theorem readsBack_u16 (v : U16) : ReadsBack decU16 encU16 v := by
  intro rest
  have h := leNat_leBytes 2 v.toNat
  have hv := v.isLt
  rw [Nat.mod_eq_of_lt (by omega)] at h
  simp only [decU16, encU16, leBytes, decBind, decByte, List.cons_append, List.nil_append, decPure_apply]
  simp only [leBytes] at h
  rw [h, BitVec.ofNat_toNat, BitVec.setWidth_eq]

/-! ### Compound operands -/

theorem readsBack_option {α : Type} {p : Dec α} {e : α → List Byte} {o : Option α} (h : ∀ a ∈ o, ReadsBack p e a) :
    ReadsBack (decOption p) (encOption e) o := by
  intro rest
  cases o with
  | none => simp [decOption, encOption, (readsBack_bool _).bind]
  | some a => simp [decOption, encOption, (readsBack_bool _).bind, (h a rfl).bind]

theorem decMany_flatMap {α : Type} {p : Dec α} {e : α → List Byte} (l : List α) (h : ∀ a ∈ l, ReadsBack p e a)
    (rest : List Byte) : decMany p l.length (l.flatMap e ++ rest) = .ok (l, rest) := by
  induction l with
  | nil => simp [decMany]
  | cons a l ih =>
    have := ih fun x hx => h x (List.mem_cons_of_mem a hx)
    simp [decMany, List.append_assoc, (h a List.mem_cons_self).bind, decBind_ok this]

theorem readsBack_list {α : Type} {p : Dec α} {e : α → List Byte} (l : List α) (h : ∀ a ∈ l, ReadsBack p e a) :
    ReadsBack (decList p) (encList e) l := by
  intro rest
  simp [decList, encList, List.append_assoc, (readsBack_nat _).bind, decMany_flatMap l h]

theorem readsBack_perMotor {α : Type} {p : Dec α} {e : α → List Byte} (h : ∀ a, ReadsBack p e a) (x : PerMotor α) :
    ReadsBack (decPerMotor p) (encPerMotor e) x := by
  intro rest
  simp [decPerMotor, encPerMotor, List.append_assoc, (h _).bind]

@[simp] theorem channelsOfList_toList (cs : ChannelSet) : channelsOfList cs.toList = cs := by
  apply Vector.ext
  intro i hi
  simp [channelsOfList]

theorem readsBack_channels (cs : ChannelSet) : ReadsBack decChannels encChannels cs := by
  intro rest
  have h := decMany_flatMap (p := decOption decU16) (e := encOption encU16) cs.toList
    (fun o _ => readsBack_option fun a _ => readsBack_u16 a) rest
  rw [Vector.length_toList] at h
  simp [decChannels, encChannels, decBind_ok h]

theorem readsBack_modeRow (r : Int × Mode) : ReadsBack decModeRow encModeRow r := by
  intro rest
  simp [decModeRow, encModeRow, List.append_assoc, (readsBack_int _).bind, (readsBack_mode _).bind]

/-! ### The configuration record -/

theorem readsBack_mapper (p : MapperParams) : ReadsBack decMapper encMapper p := by
  intro rest
  simp [decMapper, encMapper, List.append_assoc, (readsBack_int _).bind, (readsBack_nat _).bind,
    (readsBack_bool _).bind, (readsBack_mode _).bind, (readsBack_list _ fun r _ => readsBack_modeRow r).bind]

theorem readsBack_motion (p : MotionParams) : ReadsBack decMotion encMotion p := by
  intro rest
  simp [decMotion, encMotion, List.append_assoc, (readsBack_int _).bind, (readsBack_q _).bind]

theorem readsBack_pidInit (p : PidInit) : ReadsBack decPidInit encPidInit p := by
  intro rest
  simp [decPidInit, encPidInit, List.append_assoc, (readsBack_q _).bind]

theorem readsBack_tuner (p : TunerParams) : ReadsBack decTuner encTuner p := by
  intro rest
  simp [decTuner, encTuner, List.append_assoc, (readsBack_q _).bind, (readsBack_int _).bind]

theorem readsBack_params (p : Params) : ReadsBack decParams encParams p := by
  intro rest
  simp [decParams, encParams, List.append_assoc, (readsBack_int _).bind, (readsBack_mapper _).bind,
    (readsBack_motion _).bind, (readsBack_perMotor readsBack_int _).bind,
    (readsBack_perMotor readsBack_pidInit _).bind, (readsBack_bool _).bind, (readsBack_tuner _).bind,
    (readsBack_numRnd _).bind]

/-! ### Frames -/

@[simp] theorem flatMap_leBytes_length {w : Nat} (k : Nat) (l : List (BitVec w)) :
    (l.flatMap fun c => leBytes k c.toNat).length = k * l.length := by
  induction l with
  | nil => rfl
  | cons a l ih => simp [ih, Nat.mul_succ, Nat.add_comm]

/-- An interval packet has 32 bytes (R100). -/
@[simp] theorem iframeBytes_length (ch : Vector U16 14) (ck : U16) : (iframeBytes ch ck).length = 32 := by
  simp [iframeBytes, iframeBody]

/-- A parity frame has 25 bytes (R100). -/
@[simp] theorem pframeBytes_length (ch : Vector U11 16) (b23 : Byte) : (pframeBytes ch b23).length = 25 := by
  simp [pframeBytes]

/-- Two bytes at an even place of a run of 16-bit fields are one field. -/
theorem slice_flatMap (l : List U16) : ∀ k (h : k < l.length) (tail : List Byte),
    slice (l.flatMap (fun c => leBytes 2 c.toNat) ++ tail) (2 * k) 2 = leBytes 2 (l[k]).toNat := by
  induction l with
  | nil => intro k h; simp at h
  | cons a l ih =>
    intro k h tail
    cases k with
    | zero => simp [slice, leBytes]
    | succ k =>
      have := ih k (by simpa using h) tail
      rw [slice] at this ⊢
      rw [show 2 * (k + 1) = 2 * k + 2 from by ring]
      simpa [leBytes] using this

/-- `chan[k+1]` of a packet is the channel it was made of (R101, R104). -/
theorem intervalChan_iframeBytes (ch : Vector U16 14) (ck : U16) (k : Nat) (h : k < 14) :
    intervalChan (iframeBytes ch ck) (k + 1) = (ch[k]).toNat := by
  have h1 := slice_flatMap ch.toList k (by simpa using h) (leBytes 2 ck.toNat)
  have h2 := leNat_leBytes 2 (ch[k]).toNat
  have h3 := (ch[k]).isLt
  rw [slice] at h1
  simp only [Vector.getElem_toList] at h1
  rw [intervalChan, memRead, slice, iframeBytes, iframeBody, show 2 * (k + 1) = 2 * k + 2 from by ring]
  simp only [List.cons_append, List.nil_append, List.drop_succ_cons, h1, h2]
  omega

/-- The stored checksum of a packet is the one it was made of (R101). -/
theorem storedChecksum_iframeBytes (ch : Vector U16 14) (ck : U16) :
    storedChecksum (iframeBytes ch ck) = ck.toNat := by
  have h2 := leNat_leBytes 2 ck.toNat
  have h3 := ck.isLt
  have h4 : (iframeBody ch).length = 30 := by simp [iframeBody]
  rw [storedChecksum, memRead, slice, iframeBytes, ← h4, List.drop_left, List.take_of_length_le (by simp), h2]
  omega

theorem byteSum_append (a b : List Byte) : byteSum (a ++ b) = byteSum a + byteSum b := by
  induction a with
  | nil => simp [byteSum]
  | cons x a ih => simp [byteSum, ih, Nat.add_assoc]

/-- The bytes of a run of 16-bit fields, added up. -/
theorem byteSum_flatMap (l : List U16) :
    byteSum (l.flatMap fun c => leBytes 2 c.toNat) = (l.map fun c => c.toNat % 256 + c.toNat / 256).sum := by
  induction l with
  | nil => rfl
  | cons c l ih =>
    have := c.isLt
    simp only [List.flatMap_cons, byteSum_append, ih, List.map_cons, List.sum_cons]
    congr 1
    simp [leBytes, byteSum]
    omega

theorem channelSum_le (l : List U16) : (l.map fun c => c.toNat % 256 + c.toNat / 256).sum ≤ 510 * l.length := by
  induction l with
  | nil => simp
  | cons c l ih =>
    have := c.isLt
    simp only [List.map_cons, List.sum_cons, List.length_cons]
    omega

/-- The checksum R103 computes for a packet, from its channels. -/
theorem computedChecksum_iframeBytes (ch : Vector U16 14) (ck : U16) : computedChecksum (iframeBytes ch ck) =
    65535 - (0x20 + 0x40 + (ch.toList.map fun c => c.toNat % 256 + c.toNat / 256).sum) := by
  have h4 : (iframeBody ch).length = 30 := by simp [iframeBody]
  have h5 : (iframeBytes ch ck).take 30 = iframeBody ch := by rw [iframeBytes, ← h4, List.take_left]
  have h6 := channelSum_le ch.toList
  rw [Vector.length_toList] at h6
  have h7 : byteSum (iframeBody ch) = 96 + (ch.toList.map fun c => c.toNat % 256 + c.toNat / 256).sum := by
    rw [iframeBody, byteSum_append, byteSum_flatMap]; rfl
  rw [computedChecksum, h5, h7]
  omega

/-- Sixteen packed channels make a 176-bit number. -/
theorem packChannels_lt (l : List U11) : packChannels l < 2048 ^ l.length := by
  induction l with
  | nil => simp [packChannels]
  | cons c l ih =>
    have := c.isLt
    simp only [packChannels, List.length_cons, Nat.pow_succ]
    omega

/-- The `k`-th field of packed channels is the `k`-th channel. -/
theorem packChannels_field (l : List U11) : ∀ k (h : k < l.length),
    (packChannels l >>> (11 * k)) % 2048 = (l[k]).toNat := by
  induction l with
  | nil => intro k h; simp at h
  | cons c l ih =>
    intro k h
    have hc := c.isLt
    cases k with
    | zero => simp [packChannels]; omega
    | succ k =>
      have h1 := ih k (by simpa using h)
      rw [show 11 * (k + 1) = 11 + 11 * k from by ring, Nat.shiftRight_add]
      have h2 : packChannels (c :: l) >>> 11 = packChannels l := by
        rw [Nat.shiftRight_eq_div_pow]
        simp only [packChannels]
        omega
      simpa [h2] using h1

/-- `chan[k+1]` of a parity frame is the channel it was made of (R108, R110). -/
theorem parityChan_pframeBytes (ch : Vector U11 16) (b23 : Byte) (k : Nat) (h : k < 16) :
    parityChan (pframeBytes ch b23) (k + 1) = (ch[k]).toNat := by
  have h1 := packChannels_lt ch.toList
  have h2 := packChannels_field ch.toList k (by simpa using h)
  have h3 := leNat_leBytes 22 (packChannels ch.toList)
  have h4 : slice (pframeBytes ch b23) 1 22 = leBytes 22 (packChannels ch.toList) := by
    simp [slice, pframeBytes]
  rw [Nat.mod_eq_of_lt (by simpa using h1)] at h3
  rw [parityChan, memRead, h4, h3, show (0x7FF : Nat) = 2 ^ 11 - 1 from rfl, Nat.and_two_pow_sub_one_eq_mod]
  simpa using h2

end Sys2Proof
end

