-- ==== Sys2Proof/Laws/State.lean ====
section
/-! SUPPORT. One lemma per field for every update of the state, and the register-file laws of `PerMotor`. -/

namespace Sys2Proof

/-! ### `PerMotor` -/

/-- Reading the entry just written. -/
@[simp] theorem PerMotor.get_set_self {α : Type} (p : PerMotor α) (m : Motor) (x : α) : (p.set m x).get m = x := by
  cases m <;> rfl

/-- Writing one motor leaves the other alone. -/
@[simp] theorem PerMotor.get_set_ne {α : Type} (p : PerMotor α) {m n : Motor} (x : α) (h : n ≠ m) :
    (p.set m x).get n = p.get n := by
  cases m <;> cases n <;> first | rfl | exact absurd rfl h

/-- The second of two writes to one motor stands. -/
@[simp] theorem PerMotor.set_set {α : Type} (p : PerMotor α) (m : Motor) (x y : α) : (p.set m x).set m y = p.set m y := by
  cases m <;> rfl

/-- Writing back what is there changes nothing. -/
@[simp] theorem PerMotor.set_get {α : Type} (p : PerMotor α) (m : Motor) : p.set m (p.get m) = p := by
  cases m <;> rfl

/-- Two records are equal when they agree on both motors. -/
theorem PerMotor.ext_get {α : Type} {p q : PerMotor α} (h : ∀ m, p.get m = q.get m) : p = q := by
  cases p
  cases q
  exact congr (congrArg PerMotor.mk (h .L)) (h .R)

end Sys2Proof

namespace Sys2Proof.Machine

/-! ### `State.emit` -/

@[simp] theorem State.emit_cfg (s : State) (o : Output) : (s.emit o).cfg = s.cfg := rfl
@[simp] theorem State.emit_buf (s : State) (o : Output) : (s.emit o).buf = s.buf := rfl
@[simp] theorem State.emit_lastGood (s : State) (o : Output) : (s.emit o).lastGood = s.lastGood := rfl
@[simp] theorem State.emit_prevIntent (s : State) (o : Output) : (s.emit o).prevIntent = s.prevIntent := rfl
@[simp] theorem State.emit_arm (s : State) (o : Output) : (s.emit o).arm = s.arm := rfl
@[simp] theorem State.emit_warmCnt (s : State) (o : Output) : (s.emit o).warmCnt = s.warmCnt := rfl
@[simp] theorem State.emit_lowCnt (s : State) (o : Output) : (s.emit o).lowCnt = s.lowCnt := rfl
@[simp] theorem State.emit_brake (s : State) (o : Output) : (s.emit o).brake = s.brake := rfl
@[simp] theorem State.emit_lastAdv (s : State) (o : Output) : (s.emit o).lastAdv = s.lastAdv := rfl
@[simp] theorem State.emit_cmd (s : State) (o : Output) : (s.emit o).cmd = s.cmd := rfl
@[simp] theorem State.emit_act (s : State) (o : Output) : (s.emit o).act = s.act := rfl
@[simp] theorem State.emit_pid (s : State) (o : Output) : (s.emit o).pid = s.pid := rfl
@[simp] theorem State.emit_pre (s : State) (o : Output) : (s.emit o).pre = s.pre := rfl
@[simp] theorem State.emit_tuner (s : State) (o : Output) : (s.emit o).tuner = s.tuner := rfl
@[simp] theorem State.emit_tuneOwner (s : State) (o : Output) : (s.emit o).tuneOwner = s.tuneOwner := rfl
@[simp] theorem State.emit_inbox (s : State) (o : Output) : (s.emit o).inbox = s.inbox := rfl
@[simp] theorem State.emit_outputs (s : State) (o : Output) : (s.emit o).outputs = s.outputs ++ [o] := rfl
@[simp] theorem State.emit_errors (s : State) (o : Output) : (s.emit o).errors = s.errors := rfl
@[simp] theorem State.emit_result (s : State) (o : Output) : (s.emit o).result = s.result := rfl

/-! ### `State.raise` -/

@[simp] theorem State.raise_cfg (s : State) (e : ErrorCond) : (s.raise e).cfg = s.cfg := rfl
@[simp] theorem State.raise_buf (s : State) (e : ErrorCond) : (s.raise e).buf = s.buf := rfl
@[simp] theorem State.raise_lastGood (s : State) (e : ErrorCond) : (s.raise e).lastGood = s.lastGood := rfl
@[simp] theorem State.raise_prevIntent (s : State) (e : ErrorCond) : (s.raise e).prevIntent = s.prevIntent := rfl
@[simp] theorem State.raise_arm (s : State) (e : ErrorCond) : (s.raise e).arm = s.arm := rfl
@[simp] theorem State.raise_warmCnt (s : State) (e : ErrorCond) : (s.raise e).warmCnt = s.warmCnt := rfl
@[simp] theorem State.raise_lowCnt (s : State) (e : ErrorCond) : (s.raise e).lowCnt = s.lowCnt := rfl
@[simp] theorem State.raise_brake (s : State) (e : ErrorCond) : (s.raise e).brake = s.brake := rfl
@[simp] theorem State.raise_lastAdv (s : State) (e : ErrorCond) : (s.raise e).lastAdv = s.lastAdv := rfl
@[simp] theorem State.raise_cmd (s : State) (e : ErrorCond) : (s.raise e).cmd = s.cmd := rfl
@[simp] theorem State.raise_act (s : State) (e : ErrorCond) : (s.raise e).act = s.act := rfl
@[simp] theorem State.raise_pid (s : State) (e : ErrorCond) : (s.raise e).pid = s.pid := rfl
@[simp] theorem State.raise_pre (s : State) (e : ErrorCond) : (s.raise e).pre = s.pre := rfl
@[simp] theorem State.raise_tuner (s : State) (e : ErrorCond) : (s.raise e).tuner = s.tuner := rfl
@[simp] theorem State.raise_tuneOwner (s : State) (e : ErrorCond) : (s.raise e).tuneOwner = s.tuneOwner := rfl
@[simp] theorem State.raise_inbox (s : State) (e : ErrorCond) : (s.raise e).inbox = s.inbox := rfl
@[simp] theorem State.raise_outputs (s : State) (e : ErrorCond) : (s.raise e).outputs = s.outputs := rfl
@[simp] theorem State.raise_errors (s : State) (e : ErrorCond) : (s.raise e).errors = s.errors ++ [e] := rfl
@[simp] theorem State.raise_result (s : State) (e : ErrorCond) : (s.raise e).result = s.result := rfl

/-! ### `State.ret` -/

@[simp] theorem State.ret_cfg (s : State) (v : Result) : (s.ret v).cfg = s.cfg := rfl
@[simp] theorem State.ret_buf (s : State) (v : Result) : (s.ret v).buf = s.buf := rfl
@[simp] theorem State.ret_lastGood (s : State) (v : Result) : (s.ret v).lastGood = s.lastGood := rfl
@[simp] theorem State.ret_prevIntent (s : State) (v : Result) : (s.ret v).prevIntent = s.prevIntent := rfl
@[simp] theorem State.ret_arm (s : State) (v : Result) : (s.ret v).arm = s.arm := rfl
@[simp] theorem State.ret_warmCnt (s : State) (v : Result) : (s.ret v).warmCnt = s.warmCnt := rfl
@[simp] theorem State.ret_lowCnt (s : State) (v : Result) : (s.ret v).lowCnt = s.lowCnt := rfl
@[simp] theorem State.ret_brake (s : State) (v : Result) : (s.ret v).brake = s.brake := rfl
@[simp] theorem State.ret_lastAdv (s : State) (v : Result) : (s.ret v).lastAdv = s.lastAdv := rfl
@[simp] theorem State.ret_cmd (s : State) (v : Result) : (s.ret v).cmd = s.cmd := rfl
@[simp] theorem State.ret_act (s : State) (v : Result) : (s.ret v).act = s.act := rfl
@[simp] theorem State.ret_pid (s : State) (v : Result) : (s.ret v).pid = s.pid := rfl
@[simp] theorem State.ret_pre (s : State) (v : Result) : (s.ret v).pre = s.pre := rfl
@[simp] theorem State.ret_tuner (s : State) (v : Result) : (s.ret v).tuner = s.tuner := rfl
@[simp] theorem State.ret_tuneOwner (s : State) (v : Result) : (s.ret v).tuneOwner = s.tuneOwner := rfl
@[simp] theorem State.ret_inbox (s : State) (v : Result) : (s.ret v).inbox = s.inbox := rfl
@[simp] theorem State.ret_outputs (s : State) (v : Result) : (s.ret v).outputs = s.outputs := rfl
@[simp] theorem State.ret_errors (s : State) (v : Result) : (s.ret v).errors = s.errors := rfl
@[simp] theorem State.ret_result (s : State) (v : Result) : (s.ret v).result = some v := rfl

/-! ### `State.setCmd` -/

@[simp] theorem State.setCmd_cfg (s : State) (m : Motor) (c : MotorCommand) : (s.setCmd m c).cfg = s.cfg := rfl
@[simp] theorem State.setCmd_buf (s : State) (m : Motor) (c : MotorCommand) : (s.setCmd m c).buf = s.buf := rfl
@[simp] theorem State.setCmd_lastGood (s : State) (m : Motor) (c : MotorCommand) : (s.setCmd m c).lastGood = s.lastGood := rfl
@[simp] theorem State.setCmd_prevIntent (s : State) (m : Motor) (c : MotorCommand) : (s.setCmd m c).prevIntent = s.prevIntent := rfl
@[simp] theorem State.setCmd_arm (s : State) (m : Motor) (c : MotorCommand) : (s.setCmd m c).arm = s.arm := rfl
@[simp] theorem State.setCmd_warmCnt (s : State) (m : Motor) (c : MotorCommand) : (s.setCmd m c).warmCnt = s.warmCnt := rfl
@[simp] theorem State.setCmd_lowCnt (s : State) (m : Motor) (c : MotorCommand) : (s.setCmd m c).lowCnt = s.lowCnt := rfl
@[simp] theorem State.setCmd_brake (s : State) (m : Motor) (c : MotorCommand) : (s.setCmd m c).brake = s.brake := rfl
@[simp] theorem State.setCmd_lastAdv (s : State) (m : Motor) (c : MotorCommand) : (s.setCmd m c).lastAdv = s.lastAdv := rfl
@[simp] theorem State.setCmd_cmd (s : State) (m : Motor) (c : MotorCommand) : (s.setCmd m c).cmd = s.cmd.set m c := rfl
@[simp] theorem State.setCmd_act (s : State) (m : Motor) (c : MotorCommand) : (s.setCmd m c).act = s.act := rfl
@[simp] theorem State.setCmd_pid (s : State) (m : Motor) (c : MotorCommand) : (s.setCmd m c).pid = s.pid := rfl
@[simp] theorem State.setCmd_pre (s : State) (m : Motor) (c : MotorCommand) : (s.setCmd m c).pre = s.pre := rfl
@[simp] theorem State.setCmd_tuner (s : State) (m : Motor) (c : MotorCommand) : (s.setCmd m c).tuner = s.tuner := rfl
@[simp] theorem State.setCmd_tuneOwner (s : State) (m : Motor) (c : MotorCommand) : (s.setCmd m c).tuneOwner = s.tuneOwner := rfl
@[simp] theorem State.setCmd_inbox (s : State) (m : Motor) (c : MotorCommand) : (s.setCmd m c).inbox = s.inbox := rfl
@[simp] theorem State.setCmd_outputs (s : State) (m : Motor) (c : MotorCommand) : (s.setCmd m c).outputs = s.outputs := rfl
@[simp] theorem State.setCmd_errors (s : State) (m : Motor) (c : MotorCommand) : (s.setCmd m c).errors = s.errors := rfl
@[simp] theorem State.setCmd_result (s : State) (m : Motor) (c : MotorCommand) : (s.setCmd m c).result = s.result := rfl

/-! ### `State.setAct` -/

@[simp] theorem State.setAct_cfg (s : State) (m : Motor) (a : ActShadow) : (s.setAct m a).cfg = s.cfg := rfl
@[simp] theorem State.setAct_buf (s : State) (m : Motor) (a : ActShadow) : (s.setAct m a).buf = s.buf := rfl
@[simp] theorem State.setAct_lastGood (s : State) (m : Motor) (a : ActShadow) : (s.setAct m a).lastGood = s.lastGood := rfl
@[simp] theorem State.setAct_prevIntent (s : State) (m : Motor) (a : ActShadow) : (s.setAct m a).prevIntent = s.prevIntent := rfl
@[simp] theorem State.setAct_arm (s : State) (m : Motor) (a : ActShadow) : (s.setAct m a).arm = s.arm := rfl
@[simp] theorem State.setAct_warmCnt (s : State) (m : Motor) (a : ActShadow) : (s.setAct m a).warmCnt = s.warmCnt := rfl
@[simp] theorem State.setAct_lowCnt (s : State) (m : Motor) (a : ActShadow) : (s.setAct m a).lowCnt = s.lowCnt := rfl
@[simp] theorem State.setAct_brake (s : State) (m : Motor) (a : ActShadow) : (s.setAct m a).brake = s.brake := rfl
@[simp] theorem State.setAct_lastAdv (s : State) (m : Motor) (a : ActShadow) : (s.setAct m a).lastAdv = s.lastAdv := rfl
@[simp] theorem State.setAct_cmd (s : State) (m : Motor) (a : ActShadow) : (s.setAct m a).cmd = s.cmd := rfl
@[simp] theorem State.setAct_act (s : State) (m : Motor) (a : ActShadow) : (s.setAct m a).act = s.act.set m a := rfl
@[simp] theorem State.setAct_pid (s : State) (m : Motor) (a : ActShadow) : (s.setAct m a).pid = s.pid := rfl
@[simp] theorem State.setAct_pre (s : State) (m : Motor) (a : ActShadow) : (s.setAct m a).pre = s.pre := rfl
@[simp] theorem State.setAct_tuner (s : State) (m : Motor) (a : ActShadow) : (s.setAct m a).tuner = s.tuner := rfl
@[simp] theorem State.setAct_tuneOwner (s : State) (m : Motor) (a : ActShadow) : (s.setAct m a).tuneOwner = s.tuneOwner := rfl
@[simp] theorem State.setAct_inbox (s : State) (m : Motor) (a : ActShadow) : (s.setAct m a).inbox = s.inbox := rfl
@[simp] theorem State.setAct_outputs (s : State) (m : Motor) (a : ActShadow) : (s.setAct m a).outputs = s.outputs := rfl
@[simp] theorem State.setAct_errors (s : State) (m : Motor) (a : ActShadow) : (s.setAct m a).errors = s.errors := rfl
@[simp] theorem State.setAct_result (s : State) (m : Motor) (a : ActShadow) : (s.setAct m a).result = s.result := rfl

/-! ### `State.setPid` -/

@[simp] theorem State.setPid_cfg (s : State) (m : Motor) (p : PidRegs) : (s.setPid m p).cfg = s.cfg := rfl
@[simp] theorem State.setPid_buf (s : State) (m : Motor) (p : PidRegs) : (s.setPid m p).buf = s.buf := rfl
@[simp] theorem State.setPid_lastGood (s : State) (m : Motor) (p : PidRegs) : (s.setPid m p).lastGood = s.lastGood := rfl
@[simp] theorem State.setPid_prevIntent (s : State) (m : Motor) (p : PidRegs) : (s.setPid m p).prevIntent = s.prevIntent := rfl
@[simp] theorem State.setPid_arm (s : State) (m : Motor) (p : PidRegs) : (s.setPid m p).arm = s.arm := rfl
@[simp] theorem State.setPid_warmCnt (s : State) (m : Motor) (p : PidRegs) : (s.setPid m p).warmCnt = s.warmCnt := rfl
@[simp] theorem State.setPid_lowCnt (s : State) (m : Motor) (p : PidRegs) : (s.setPid m p).lowCnt = s.lowCnt := rfl
@[simp] theorem State.setPid_brake (s : State) (m : Motor) (p : PidRegs) : (s.setPid m p).brake = s.brake := rfl
@[simp] theorem State.setPid_lastAdv (s : State) (m : Motor) (p : PidRegs) : (s.setPid m p).lastAdv = s.lastAdv := rfl
@[simp] theorem State.setPid_cmd (s : State) (m : Motor) (p : PidRegs) : (s.setPid m p).cmd = s.cmd := rfl
@[simp] theorem State.setPid_act (s : State) (m : Motor) (p : PidRegs) : (s.setPid m p).act = s.act := rfl
@[simp] theorem State.setPid_pid (s : State) (m : Motor) (p : PidRegs) : (s.setPid m p).pid = s.pid.set m p := rfl
@[simp] theorem State.setPid_pre (s : State) (m : Motor) (p : PidRegs) : (s.setPid m p).pre = s.pre := rfl
@[simp] theorem State.setPid_tuner (s : State) (m : Motor) (p : PidRegs) : (s.setPid m p).tuner = s.tuner := rfl
@[simp] theorem State.setPid_tuneOwner (s : State) (m : Motor) (p : PidRegs) : (s.setPid m p).tuneOwner = s.tuneOwner := rfl
@[simp] theorem State.setPid_inbox (s : State) (m : Motor) (p : PidRegs) : (s.setPid m p).inbox = s.inbox := rfl
@[simp] theorem State.setPid_outputs (s : State) (m : Motor) (p : PidRegs) : (s.setPid m p).outputs = s.outputs := rfl
@[simp] theorem State.setPid_errors (s : State) (m : Motor) (p : PidRegs) : (s.setPid m p).errors = s.errors := rfl
@[simp] theorem State.setPid_result (s : State) (m : Motor) (p : PidRegs) : (s.setPid m p).result = s.result := rfl

/-! ### `State.setPre` -/

@[simp] theorem State.setPre_cfg (s : State) (m : Motor) (p : PreRegs) : (s.setPre m p).cfg = s.cfg := rfl
@[simp] theorem State.setPre_buf (s : State) (m : Motor) (p : PreRegs) : (s.setPre m p).buf = s.buf := rfl
@[simp] theorem State.setPre_lastGood (s : State) (m : Motor) (p : PreRegs) : (s.setPre m p).lastGood = s.lastGood := rfl
@[simp] theorem State.setPre_prevIntent (s : State) (m : Motor) (p : PreRegs) : (s.setPre m p).prevIntent = s.prevIntent := rfl
@[simp] theorem State.setPre_arm (s : State) (m : Motor) (p : PreRegs) : (s.setPre m p).arm = s.arm := rfl
@[simp] theorem State.setPre_warmCnt (s : State) (m : Motor) (p : PreRegs) : (s.setPre m p).warmCnt = s.warmCnt := rfl
@[simp] theorem State.setPre_lowCnt (s : State) (m : Motor) (p : PreRegs) : (s.setPre m p).lowCnt = s.lowCnt := rfl
@[simp] theorem State.setPre_brake (s : State) (m : Motor) (p : PreRegs) : (s.setPre m p).brake = s.brake := rfl
@[simp] theorem State.setPre_lastAdv (s : State) (m : Motor) (p : PreRegs) : (s.setPre m p).lastAdv = s.lastAdv := rfl
@[simp] theorem State.setPre_cmd (s : State) (m : Motor) (p : PreRegs) : (s.setPre m p).cmd = s.cmd := rfl
@[simp] theorem State.setPre_act (s : State) (m : Motor) (p : PreRegs) : (s.setPre m p).act = s.act := rfl
@[simp] theorem State.setPre_pid (s : State) (m : Motor) (p : PreRegs) : (s.setPre m p).pid = s.pid := rfl
@[simp] theorem State.setPre_pre (s : State) (m : Motor) (p : PreRegs) : (s.setPre m p).pre = s.pre.set m p := rfl
@[simp] theorem State.setPre_tuner (s : State) (m : Motor) (p : PreRegs) : (s.setPre m p).tuner = s.tuner := rfl
@[simp] theorem State.setPre_tuneOwner (s : State) (m : Motor) (p : PreRegs) : (s.setPre m p).tuneOwner = s.tuneOwner := rfl
@[simp] theorem State.setPre_inbox (s : State) (m : Motor) (p : PreRegs) : (s.setPre m p).inbox = s.inbox := rfl
@[simp] theorem State.setPre_outputs (s : State) (m : Motor) (p : PreRegs) : (s.setPre m p).outputs = s.outputs := rfl
@[simp] theorem State.setPre_errors (s : State) (m : Motor) (p : PreRegs) : (s.setPre m p).errors = s.errors := rfl
@[simp] theorem State.setPre_result (s : State) (m : Motor) (p : PreRegs) : (s.setPre m p).result = s.result := rfl

/-! ### `State.setTuner` -/

@[simp] theorem State.setTuner_cfg (s : State) (t : TunerRegs) : (s.setTuner t).cfg = s.cfg := rfl
@[simp] theorem State.setTuner_buf (s : State) (t : TunerRegs) : (s.setTuner t).buf = s.buf := rfl
@[simp] theorem State.setTuner_lastGood (s : State) (t : TunerRegs) : (s.setTuner t).lastGood = s.lastGood := rfl
@[simp] theorem State.setTuner_prevIntent (s : State) (t : TunerRegs) : (s.setTuner t).prevIntent = s.prevIntent := rfl
@[simp] theorem State.setTuner_arm (s : State) (t : TunerRegs) : (s.setTuner t).arm = s.arm := rfl
@[simp] theorem State.setTuner_warmCnt (s : State) (t : TunerRegs) : (s.setTuner t).warmCnt = s.warmCnt := rfl
@[simp] theorem State.setTuner_lowCnt (s : State) (t : TunerRegs) : (s.setTuner t).lowCnt = s.lowCnt := rfl
@[simp] theorem State.setTuner_brake (s : State) (t : TunerRegs) : (s.setTuner t).brake = s.brake := rfl
@[simp] theorem State.setTuner_lastAdv (s : State) (t : TunerRegs) : (s.setTuner t).lastAdv = s.lastAdv := rfl
@[simp] theorem State.setTuner_cmd (s : State) (t : TunerRegs) : (s.setTuner t).cmd = s.cmd := rfl
@[simp] theorem State.setTuner_act (s : State) (t : TunerRegs) : (s.setTuner t).act = s.act := rfl
@[simp] theorem State.setTuner_pid (s : State) (t : TunerRegs) : (s.setTuner t).pid = s.pid := rfl
@[simp] theorem State.setTuner_pre (s : State) (t : TunerRegs) : (s.setTuner t).pre = s.pre := rfl
@[simp] theorem State.setTuner_tuner (s : State) (t : TunerRegs) : (s.setTuner t).tuner = t := rfl
@[simp] theorem State.setTuner_tuneOwner (s : State) (t : TunerRegs) : (s.setTuner t).tuneOwner = s.tuneOwner := rfl
@[simp] theorem State.setTuner_inbox (s : State) (t : TunerRegs) : (s.setTuner t).inbox = s.inbox := rfl
@[simp] theorem State.setTuner_outputs (s : State) (t : TunerRegs) : (s.setTuner t).outputs = s.outputs := rfl
@[simp] theorem State.setTuner_errors (s : State) (t : TunerRegs) : (s.setTuner t).errors = s.errors := rfl
@[simp] theorem State.setTuner_result (s : State) (t : TunerRegs) : (s.setTuner t).result = s.result := rfl

/-! ### `State.beginOp` -/

@[simp] theorem State.beginOp_cfg (s : State) : (s.beginOp).cfg = s.cfg := rfl
@[simp] theorem State.beginOp_buf (s : State) : (s.beginOp).buf = s.buf := rfl
@[simp] theorem State.beginOp_lastGood (s : State) : (s.beginOp).lastGood = s.lastGood := rfl
@[simp] theorem State.beginOp_prevIntent (s : State) : (s.beginOp).prevIntent = s.prevIntent := rfl
@[simp] theorem State.beginOp_arm (s : State) : (s.beginOp).arm = s.arm := rfl
@[simp] theorem State.beginOp_warmCnt (s : State) : (s.beginOp).warmCnt = s.warmCnt := rfl
@[simp] theorem State.beginOp_lowCnt (s : State) : (s.beginOp).lowCnt = s.lowCnt := rfl
@[simp] theorem State.beginOp_brake (s : State) : (s.beginOp).brake = s.brake := rfl
@[simp] theorem State.beginOp_lastAdv (s : State) : (s.beginOp).lastAdv = s.lastAdv := rfl
@[simp] theorem State.beginOp_cmd (s : State) : (s.beginOp).cmd = s.cmd := rfl
@[simp] theorem State.beginOp_act (s : State) : (s.beginOp).act = s.act := rfl
@[simp] theorem State.beginOp_pid (s : State) : (s.beginOp).pid = s.pid := rfl
@[simp] theorem State.beginOp_pre (s : State) : (s.beginOp).pre = s.pre := rfl
@[simp] theorem State.beginOp_tuner (s : State) : (s.beginOp).tuner = s.tuner := rfl
@[simp] theorem State.beginOp_tuneOwner (s : State) : (s.beginOp).tuneOwner = s.tuneOwner := rfl
@[simp] theorem State.beginOp_inbox (s : State) : (s.beginOp).inbox = s.inbox := rfl
@[simp] theorem State.beginOp_outputs (s : State) : (s.beginOp).outputs = [] := rfl
@[simp] theorem State.beginOp_errors (s : State) : (s.beginOp).errors = [] := rfl
@[simp] theorem State.beginOp_result (s : State) : (s.beginOp).result = none := rfl

/-! ### `State.withFetchWord` -/

@[simp] theorem State.withFetchWord_cfg (s : State) (n w : Nat) : (s.withFetchWord n w).cfg = s.cfg := rfl
@[simp] theorem State.withFetchWord_buf (s : State) (n w : Nat) : (s.withFetchWord n w).buf = s.buf := rfl
@[simp] theorem State.withFetchWord_lastGood (s : State) (n w : Nat) : (s.withFetchWord n w).lastGood = s.lastGood := rfl
@[simp] theorem State.withFetchWord_prevIntent (s : State) (n w : Nat) : (s.withFetchWord n w).prevIntent = s.prevIntent := rfl
@[simp] theorem State.withFetchWord_arm (s : State) (n w : Nat) : (s.withFetchWord n w).arm = s.arm := rfl
@[simp] theorem State.withFetchWord_warmCnt (s : State) (n w : Nat) : (s.withFetchWord n w).warmCnt = s.warmCnt := rfl
@[simp] theorem State.withFetchWord_lowCnt (s : State) (n w : Nat) : (s.withFetchWord n w).lowCnt = s.lowCnt := rfl
@[simp] theorem State.withFetchWord_brake (s : State) (n w : Nat) : (s.withFetchWord n w).brake = s.brake := rfl
@[simp] theorem State.withFetchWord_lastAdv (s : State) (n w : Nat) : (s.withFetchWord n w).lastAdv = s.lastAdv := rfl
@[simp] theorem State.withFetchWord_cmd (s : State) (n w : Nat) : (s.withFetchWord n w).cmd = s.cmd := rfl
@[simp] theorem State.withFetchWord_act (s : State) (n w : Nat) : (s.withFetchWord n w).act = s.act := rfl
@[simp] theorem State.withFetchWord_pid (s : State) (n w : Nat) : (s.withFetchWord n w).pid = s.pid := rfl
@[simp] theorem State.withFetchWord_pre (s : State) (n w : Nat) : (s.withFetchWord n w).pre = s.pre := rfl
@[simp] theorem State.withFetchWord_tuner (s : State) (n w : Nat) : (s.withFetchWord n w).tuner = s.tuner := rfl
@[simp] theorem State.withFetchWord_tuneOwner (s : State) (n w : Nat) : (s.withFetchWord n w).tuneOwner = s.tuneOwner := rfl
@[simp] theorem State.withFetchWord_inbox (s : State) (n w : Nat) : (s.withFetchWord n w).inbox = tableRequest n w :: s.inbox := rfl
@[simp] theorem State.withFetchWord_outputs (s : State) (n w : Nat) : (s.withFetchWord n w).outputs = s.outputs := rfl
@[simp] theorem State.withFetchWord_errors (s : State) (n w : Nat) : (s.withFetchWord n w).errors = s.errors := rfl
@[simp] theorem State.withFetchWord_result (s : State) (n w : Nat) : (s.withFetchWord n w).result = s.result := rfl

/-! ### `applyScan` -/

@[simp] theorem applyScan_cfg (r : Scan) (s : State) : (applyScan r s).cfg = s.cfg := rfl
@[simp] theorem applyScan_buf (r : Scan) (s : State) : (applyScan r s).buf = r.buf := rfl
@[simp] theorem applyScan_lastGood (r : Scan) (s : State) : (applyScan r s).lastGood = r.lastGood := rfl
@[simp] theorem applyScan_prevIntent (r : Scan) (s : State) : (applyScan r s).prevIntent = s.prevIntent := rfl
@[simp] theorem applyScan_arm (r : Scan) (s : State) : (applyScan r s).arm = s.arm := rfl
@[simp] theorem applyScan_warmCnt (r : Scan) (s : State) : (applyScan r s).warmCnt = s.warmCnt := rfl
@[simp] theorem applyScan_lowCnt (r : Scan) (s : State) : (applyScan r s).lowCnt = s.lowCnt := rfl
@[simp] theorem applyScan_brake (r : Scan) (s : State) : (applyScan r s).brake = s.brake := rfl
@[simp] theorem applyScan_lastAdv (r : Scan) (s : State) : (applyScan r s).lastAdv = s.lastAdv := rfl
@[simp] theorem applyScan_cmd (r : Scan) (s : State) : (applyScan r s).cmd = s.cmd := rfl
@[simp] theorem applyScan_act (r : Scan) (s : State) : (applyScan r s).act = s.act := rfl
@[simp] theorem applyScan_pid (r : Scan) (s : State) : (applyScan r s).pid = s.pid := rfl
@[simp] theorem applyScan_pre (r : Scan) (s : State) : (applyScan r s).pre = s.pre := rfl
@[simp] theorem applyScan_tuner (r : Scan) (s : State) : (applyScan r s).tuner = s.tuner := rfl
@[simp] theorem applyScan_tuneOwner (r : Scan) (s : State) : (applyScan r s).tuneOwner = s.tuneOwner := rfl
@[simp] theorem applyScan_inbox (r : Scan) (s : State) : (applyScan r s).inbox = s.inbox := rfl
@[simp] theorem applyScan_outputs (r : Scan) (s : State) : (applyScan r s).outputs = s.outputs ++ r.outs := rfl
@[simp] theorem applyScan_errors (r : Scan) (s : State) : (applyScan r s).errors = s.errors ++ r.errs := rfl
@[simp] theorem applyScan_result (r : Scan) (s : State) : (applyScan r s).result = s.result := rfl

/-! ### The actuation calls -/

@[simp] theorem sendDirection_cfg (m : Motor) (d : Spin) (s : State) :
    (sendDirection m d s).cfg = s.cfg := rfl
@[simp] theorem sendDirection_buf (m : Motor) (d : Spin) (s : State) :
    (sendDirection m d s).buf = s.buf := rfl
@[simp] theorem sendDirection_lastGood (m : Motor) (d : Spin) (s : State) :
    (sendDirection m d s).lastGood = s.lastGood := rfl
@[simp] theorem sendDirection_prevIntent (m : Motor) (d : Spin) (s : State) :
    (sendDirection m d s).prevIntent = s.prevIntent := rfl
@[simp] theorem sendDirection_arm (m : Motor) (d : Spin) (s : State) :
    (sendDirection m d s).arm = s.arm := rfl
@[simp] theorem sendDirection_warmCnt (m : Motor) (d : Spin) (s : State) :
    (sendDirection m d s).warmCnt = s.warmCnt := rfl
@[simp] theorem sendDirection_lowCnt (m : Motor) (d : Spin) (s : State) :
    (sendDirection m d s).lowCnt = s.lowCnt := rfl
@[simp] theorem sendDirection_brake (m : Motor) (d : Spin) (s : State) :
    (sendDirection m d s).brake = s.brake := rfl
@[simp] theorem sendDirection_lastAdv (m : Motor) (d : Spin) (s : State) :
    (sendDirection m d s).lastAdv = s.lastAdv := rfl
@[simp] theorem sendDirection_cmd (m : Motor) (d : Spin) (s : State) :
    (sendDirection m d s).cmd = s.cmd := rfl
@[simp] theorem sendDirection_act (m : Motor) (d : Spin) (s : State) :
    (sendDirection m d s).act = s.act.set m { s.act.get m with dir := some d } := rfl
@[simp] theorem sendDirection_pid (m : Motor) (d : Spin) (s : State) :
    (sendDirection m d s).pid = s.pid := rfl
@[simp] theorem sendDirection_pre (m : Motor) (d : Spin) (s : State) :
    (sendDirection m d s).pre = s.pre := rfl
@[simp] theorem sendDirection_tuner (m : Motor) (d : Spin) (s : State) :
    (sendDirection m d s).tuner = s.tuner := rfl
@[simp] theorem sendDirection_tuneOwner (m : Motor) (d : Spin) (s : State) :
    (sendDirection m d s).tuneOwner = s.tuneOwner := rfl
@[simp] theorem sendDirection_inbox (m : Motor) (d : Spin) (s : State) :
    (sendDirection m d s).inbox = s.inbox := rfl
@[simp] theorem sendDirection_outputs (m : Motor) (d : Spin) (s : State) :
    (sendDirection m d s).outputs = s.outputs ++ [.setDirection m (d == .forward)] := rfl
@[simp] theorem sendDirection_errors (m : Motor) (d : Spin) (s : State) :
    (sendDirection m d s).errors = s.errors := rfl
@[simp] theorem sendDirection_result (m : Motor) (d : Spin) (s : State) :
    (sendDirection m d s).result = s.result := rfl

@[simp] theorem sendDuty_cfg (m : Motor) (f : Q) (s : State) :
    (sendDuty m f s).cfg = s.cfg := rfl
@[simp] theorem sendDuty_buf (m : Motor) (f : Q) (s : State) :
    (sendDuty m f s).buf = s.buf := rfl
@[simp] theorem sendDuty_lastGood (m : Motor) (f : Q) (s : State) :
    (sendDuty m f s).lastGood = s.lastGood := rfl
@[simp] theorem sendDuty_prevIntent (m : Motor) (f : Q) (s : State) :
    (sendDuty m f s).prevIntent = s.prevIntent := rfl
@[simp] theorem sendDuty_arm (m : Motor) (f : Q) (s : State) :
    (sendDuty m f s).arm = s.arm := rfl
@[simp] theorem sendDuty_warmCnt (m : Motor) (f : Q) (s : State) :
    (sendDuty m f s).warmCnt = s.warmCnt := rfl
@[simp] theorem sendDuty_lowCnt (m : Motor) (f : Q) (s : State) :
    (sendDuty m f s).lowCnt = s.lowCnt := rfl
@[simp] theorem sendDuty_brake (m : Motor) (f : Q) (s : State) :
    (sendDuty m f s).brake = s.brake := rfl
@[simp] theorem sendDuty_lastAdv (m : Motor) (f : Q) (s : State) :
    (sendDuty m f s).lastAdv = s.lastAdv := rfl
@[simp] theorem sendDuty_cmd (m : Motor) (f : Q) (s : State) :
    (sendDuty m f s).cmd = s.cmd := rfl
@[simp] theorem sendDuty_act (m : Motor) (f : Q) (s : State) :
    (sendDuty m f s).act = s.act.set m { s.act.get m with duty := some f } := rfl
@[simp] theorem sendDuty_pid (m : Motor) (f : Q) (s : State) :
    (sendDuty m f s).pid = s.pid := rfl
@[simp] theorem sendDuty_pre (m : Motor) (f : Q) (s : State) :
    (sendDuty m f s).pre = s.pre := rfl
@[simp] theorem sendDuty_tuner (m : Motor) (f : Q) (s : State) :
    (sendDuty m f s).tuner = s.tuner := rfl
@[simp] theorem sendDuty_tuneOwner (m : Motor) (f : Q) (s : State) :
    (sendDuty m f s).tuneOwner = s.tuneOwner := rfl
@[simp] theorem sendDuty_inbox (m : Motor) (f : Q) (s : State) :
    (sendDuty m f s).inbox = s.inbox := rfl
@[simp] theorem sendDuty_outputs (m : Motor) (f : Q) (s : State) :
    (sendDuty m f s).outputs = s.outputs ++ [.setDuty m f] := rfl
@[simp] theorem sendDuty_errors (m : Motor) (f : Q) (s : State) :
    (sendDuty m f s).errors = s.errors := rfl
@[simp] theorem sendDuty_result (m : Motor) (f : Q) (s : State) :
    (sendDuty m f s).result = s.result := rfl

@[simp] theorem sendBrake_cfg (m : Motor) (b : Bool) (s : State) :
    (sendBrake m b s).cfg = s.cfg := rfl
@[simp] theorem sendBrake_buf (m : Motor) (b : Bool) (s : State) :
    (sendBrake m b s).buf = s.buf := rfl
@[simp] theorem sendBrake_lastGood (m : Motor) (b : Bool) (s : State) :
    (sendBrake m b s).lastGood = s.lastGood := rfl
@[simp] theorem sendBrake_prevIntent (m : Motor) (b : Bool) (s : State) :
    (sendBrake m b s).prevIntent = s.prevIntent := rfl
@[simp] theorem sendBrake_arm (m : Motor) (b : Bool) (s : State) :
    (sendBrake m b s).arm = s.arm := rfl
@[simp] theorem sendBrake_warmCnt (m : Motor) (b : Bool) (s : State) :
    (sendBrake m b s).warmCnt = s.warmCnt := rfl
@[simp] theorem sendBrake_lowCnt (m : Motor) (b : Bool) (s : State) :
    (sendBrake m b s).lowCnt = s.lowCnt := rfl
@[simp] theorem sendBrake_brake (m : Motor) (b : Bool) (s : State) :
    (sendBrake m b s).brake = s.brake := rfl
@[simp] theorem sendBrake_lastAdv (m : Motor) (b : Bool) (s : State) :
    (sendBrake m b s).lastAdv = s.lastAdv := rfl
@[simp] theorem sendBrake_cmd (m : Motor) (b : Bool) (s : State) :
    (sendBrake m b s).cmd = s.cmd := rfl
@[simp] theorem sendBrake_act (m : Motor) (b : Bool) (s : State) :
    (sendBrake m b s).act = s.act.set m { s.act.get m with brake := some b } := rfl
@[simp] theorem sendBrake_pid (m : Motor) (b : Bool) (s : State) :
    (sendBrake m b s).pid = s.pid := rfl
@[simp] theorem sendBrake_pre (m : Motor) (b : Bool) (s : State) :
    (sendBrake m b s).pre = s.pre := rfl
@[simp] theorem sendBrake_tuner (m : Motor) (b : Bool) (s : State) :
    (sendBrake m b s).tuner = s.tuner := rfl
@[simp] theorem sendBrake_tuneOwner (m : Motor) (b : Bool) (s : State) :
    (sendBrake m b s).tuneOwner = s.tuneOwner := rfl
@[simp] theorem sendBrake_inbox (m : Motor) (b : Bool) (s : State) :
    (sendBrake m b s).inbox = s.inbox := rfl
@[simp] theorem sendBrake_outputs (m : Motor) (b : Bool) (s : State) :
    (sendBrake m b s).outputs = s.outputs ++ [.setBrake m b] := rfl
@[simp] theorem sendBrake_errors (m : Motor) (b : Bool) (s : State) :
    (sendBrake m b s).errors = s.errors := rfl
@[simp] theorem sendBrake_result (m : Motor) (b : Bool) (s : State) :
    (sendBrake m b s).result = s.result := rfl

end Sys2Proof.Machine
end

