-- ==== Sys2Proof/Laws/Ops.lean ====
section
/-! SUPPORT. One law per shared operation: the arithmetic primitives, the byte buffer and its form, and the
change-filtered brake call. -/

namespace Sys2Proof.Machine

/-! ### Arithmetic (00_scope.md R21) -/

/-- A clamped value lies between the bounds, when they are in order. -/
theorem clamp_bounds {v lo hi : Q} (h : lo ≤ hi) : lo ≤ clamp v lo hi ∧ clamp v lo hi ≤ hi := by
  unfold clamp
  split
  · exact ⟨le_rfl, h⟩
  · split
    · exact ⟨h, le_rfl⟩
    · exact ⟨not_lt.mp ‹_›, not_lt.mp ‹_›⟩

/-- A value between the bounds is not changed. -/
theorem clamp_of_bounds {v lo hi : Q} (h1 : lo ≤ v) (h2 : v ≤ hi) : clamp v lo hi = v := by
  simp [clamp, not_lt.mpr h1, not_lt.mpr h2]

/-- `clamp` as a maximum of a minimum, when the bounds are in order. -/
theorem clamp_eq_max_min {v lo hi : Q} (h : lo ≤ hi) : clamp v lo hi = max lo (min v hi) := by
  unfold clamp
  split
  · have : v ≤ hi := (le_of_lt ‹_›).trans h
    rw [min_eq_left this, max_eq_left (le_of_lt ‹_›)]
  · split
    · rw [min_eq_right (le_of_lt ‹_›), max_eq_right h]
    · rw [min_eq_left (not_lt.mp ‹_›), max_eq_right (not_lt.mp ‹_›)]

/-- A value clamped to [0, 1] is positive exactly when it was. -/
theorem clamp_unit_pos {v : Q} : 0 < clamp v 0 1 ↔ 0 < v := by
  unfold clamp
  split
  · constructor <;> intro h <;> linarith
  · split
    · constructor <;> intro h <;> linarith
    · exact Iff.rfl

/-- `absQ` is the absolute value. -/
@[simp] theorem absQ_eq_abs (v : Q) : absQ v = |v| := by
  unfold absQ
  split
  · exact (abs_of_neg ‹_›).symm
  · exact (abs_of_nonneg (not_lt.mp ‹_›)).symm

@[simp] theorem sign_eq_zero {v : Q} : sign v = .zero ↔ v = 0 := by
  unfold sign
  split
  · simp only [reduceCtorEq, false_iff]
    exact ne_of_lt ‹_›
  · split <;> simp_all

theorem sign_of_pos {v : Q} (h : 0 < v) : sign v = .pos := by
  simp [sign, not_lt.mpr h.le, h.ne']

theorem sign_of_neg {v : Q} (h : v < 0) : sign v = .neg := by
  simp [sign, h]

/-- With exact arithmetic `rnd` does nothing (R18). -/
@[simp] theorem rnd_exact {cfg : Cfg} (h : cfg.par.numRnd = .exact) (v : Q) : rnd cfg v = v := by
  simp [rnd, h]

/-- The reset value of `last_out` is the clamped zero of R60. -/
theorem atReset_lastOut (p : PidInit) : (PidRegs.atReset p).lastOut = clamp 0 p.outMin0 p.outMax0 := rfl

/-! ### The byte buffer (20_memory.md R70, R81) -/

/-- A buffer within the cap is not truncated. -/
theorem bufTruncate_of_le {cap : Int} {buf : List Byte} (h : (buf.length : Int) ≤ cap) : bufTruncate cap buf = buf := by
  simp [bufTruncate, not_lt.mpr h]

/-- Truncation establishes the buffer's form. -/
theorem bufTruncate_wf {cap : Int} (h : 0 ≤ cap) (buf : List Byte) : Memory.wf cap (bufTruncate cap buf) := by
  unfold Memory.wf bufTruncate bufDrop
  split
  · rw [List.length_drop]; omega
  · omega

/-- Dropping bytes keeps the form. -/
theorem bufDrop_wf {cap : Int} {buf : List Byte} (h : Memory.wf cap buf) (n : Nat) : Memory.wf cap (bufDrop buf n) := by
  unfold Memory.wf bufDrop at *
  rw [List.length_drop]
  omega

/-- Appending one byte keeps the form while there is room, and truncation restores it in any case. -/
theorem bufAppend_wf {cap : Int} {buf : List Byte} (h : (buf.length : Int) < cap) (b : Byte) :
    Memory.wf cap (bufAppend buf b) := by
  unfold Memory.wf bufAppend
  rw [List.length_append, List.length_singleton]
  omega

/-- The buffer after reset has the form. -/
theorem reset_buf_wf : Memory.wf State.reset.cfg.par.bufCap State.reset.buf := by decide

/-- The cells of a buffer have strictly rising addresses: one canonical list for each buffer. -/
theorem cells_addresses (buf : List Byte) : (Memory.cells buf).map Prod.fst = List.range buf.length := by
  simp [Memory.cells, Function.comp_def, List.range_eq_range']

/-- A byte is at an offset exactly when the cells list it there. -/
theorem read_eq_some_iff {buf : List Byte} {a : Nat} {b : Byte} :
    Memory.read buf a = some b ↔ (a, b) ∈ Memory.cells buf := by
  simp [Memory.read, Memory.cells, List.mem_zipIdx_iff_getElem?]

/-- Appending leaves every byte alone. -/
theorem read_bufAppend {buf : List Byte} {a : Nat} (h : a < buf.length) (b : Byte) :
    Memory.read (bufAppend buf b) a = Memory.read buf a := by
  exact List.getElem?_append_left h

/-- The appended byte is at the old length (R74). -/
theorem read_bufAppend_length (buf : List Byte) (b : Byte) : Memory.read (bufAppend buf b) buf.length = some b := by
  simp [Memory.read, bufAppend]

/-- Dropping `n` bytes moves the byte at `a + n` to `a` (R71). -/
theorem read_bufDrop (buf : List Byte) (n a : Nat) : Memory.read (bufDrop buf n) a = Memory.read buf (n + a) := by
  simp [Memory.read, bufDrop]

/-! ### The brake call -/

/-- All a change-filtered `set_brake` can do (R221, R226): the shadow holds `b` afterwards, and the call goes out
exactly when it did not before. -/
theorem sendBrakeIfChanged_eq (m : Motor) (b : Bool) (s : State) :
    sendBrakeIfChanged m b s = { s with
      act := s.act.set m { s.act.get m with brake := some b }
      outputs := s.outputs ++ if (s.act.get m).brake = some b then [] else [.setBrake m b] } := by
  unfold sendBrakeIfChanged
  split
  · rename_i h
    have : ({ s.act.get m with brake := some b } : ActShadow) = s.act.get m := by rw [← h]
    rw [this, PerMotor.set_get, List.append_nil]
  · rfl

end Sys2Proof.Machine
end

