-- ==== Sys2Proof/Laws/FrameDecoder.lean ====
section
/-! SUPPORT. What one `FD_FEED` can do, said once: wait, accept, or reject and resynchronise. -/

namespace Sys2Proof

open Sys2Proof.Machine

@[simp] theorem startMismatch_nil (v : Variant) : startMismatch v [] = false := rfl

@[simp] theorem bufNormal_nil (v : Variant) : BufNormal v [] := by cases v <;> exact ⟨rfl, by decide⟩

/-- Only the first two bytes can rule out a frame. -/
theorem startMismatch_append {v : Variant} {buf : List Byte} (h : 2 ≤ buf.length) (r : List Byte) :
    startMismatch v (buf ++ r) = startMismatch v buf := by
  rcases buf with _ | ⟨a, _ | ⟨b, buf⟩⟩
  · simp at h
  · simp at h
  · cases v <;> simp [startMismatch, startPattern]

/-- The suffix at which the scan stops when there is no room for a frame: the first offset that shows no mismatch. -/
def skipTo (v : Variant) : List Byte → List Byte
  | [] => []
  | b :: bs => if startMismatch v (b :: bs) then skipTo v bs else b :: bs

theorem skipTo_suffix (v : Variant) (l : List Byte) : skipTo v l <:+ l := by
  induction l with
  | nil => exact List.suffix_refl _
  | cons b bs ih =>
    unfold skipTo
    split
    · exact ih.trans (List.suffix_cons b bs)
    · exact List.suffix_refl _

theorem skipTo_length_le (v : Variant) (l : List Byte) : (skipTo v l).length ≤ l.length := (skipTo_suffix v l).length_le

@[simp] theorem startMismatch_skipTo (v : Variant) (l : List Byte) : startMismatch v (skipTo v l) = false := by
  induction l with
  | nil => rfl
  | cons b bs ih =>
    unfold skipTo
    split
    · exact ih
    · simpa using ‹¬ startMismatch v (b :: bs) = true›

/-- No longer suffix is free of a mismatch. -/
theorem skipTo_longest (v : Variant) (l : List Byte) :
    ∀ r, r <:+ l → startMismatch v r = false → r.length ≤ (skipTo v l).length := by
  induction l with
  | nil => intro r hr _; simp [List.suffix_nil.mp hr]
  | cons b bs ih =>
    intro r hr hm
    unfold skipTo
    split
    · rcases List.suffix_cons_iff.mp hr with rfl | h
      · simp_all
      · exact ih r h hm
    · exact hr.length_le

theorem skipTo_of_normal {v : Variant} {l : List Byte} (h : startMismatch v l = false) : skipTo v l = l := by
  cases l <;> simp [skipTo, h]

/-- The scan of a buffer shorter than a frame only drops bytes (S1) and waits (S2). -/
theorem scanLoop_short (v : Variant) (n : Nat) : ∀ r : Scan, r.buf.length ≤ n → r.buf.length < frameLen v →
    scanLoop v n r = { r with buf := skipTo v r.buf } := by
  induction n with
  | zero =>
    rintro ⟨buf, lg, os, es⟩ h _
    obtain rfl : buf = [] := by simpa using h
    rfl
  | succ n ih =>
    rintro ⟨buf, lg, os, es⟩ h hl
    rcases buf with _ | ⟨b, bs⟩
    · rfl
    · simp only [List.length_cons] at h hl
      by_cases hm : startMismatch v (b :: bs) = true
      · have := ih ⟨bs, lg, os, es⟩ (by simp; omega) (by simp; omega)
        simpa [scanLoop, hm, bufDrop, skipTo] using this
      · simp only [scanLoop, hm, skipTo, hl, if_true, List.length_cons, Nat.succ_ne_zero, if_false, Bool.false_eq_true]

/-- Everything one `FD_FEED` can do on a buffer in normal form whose cap leaves room for a frame (R146, R151). -/
theorem feedScan_cases {s : State} (b : Byte) (hn : BufNormal s.cfg.variant s.buf)
    (hc : (frameLen s.cfg.variant : Int) ≤ s.cfg.par.bufCap) :
    ((s.buf ++ [b]).length < frameLen s.cfg.variant ∧
      feedScan b s = ⟨skipTo s.cfg.variant (s.buf ++ [b]), s.lastGood, [], []⟩) ∨
    ((s.buf ++ [b]).length = frameLen s.cfg.variant ∧ validWindow s.cfg.variant (s.buf ++ [b]) = true ∧
      feedScan b s = ⟨[], some (decodeWindow s.cfg.variant (s.buf ++ [b])),
        [.frame (decodeWindow s.cfg.variant (s.buf ++ [b]))], []⟩) ∨
    ((s.buf ++ [b]).length = frameLen s.cfg.variant ∧ validWindow s.cfg.variant (s.buf ++ [b]) = false ∧
      feedScan b s = ⟨skipTo s.cfg.variant ((s.buf ++ [b]).drop 1), s.lastGood,
        [.fdReject (rejectCause s.cfg.variant)], [.frameError (rejectCause s.cfg.variant)]⟩) := by
  obtain ⟨hm, hl⟩ := hn
  have hlen : (s.buf ++ [b]).length = s.buf.length + 1 := by simp
  have htr : bufTruncate s.cfg.par.bufCap (s.buf ++ [b]) = s.buf ++ [b] :=
    bufTruncate_of_le (by rw [hlen]; omega)
  have hscan : feedScan b s = scanLoop s.cfg.variant ((s.buf ++ [b]).length + 1) ⟨s.buf ++ [b], s.lastGood, [], []⟩ := by
    simp only [feedScan, bufAppend, htr]
  by_cases hlt : (s.buf ++ [b]).length < frameLen s.cfg.variant
  · exact .inl ⟨hlt, hscan.trans (scanLoop_short _ _ _ (by simp) hlt)⟩
  · have heq : (s.buf ++ [b]).length = frameLen s.cfg.variant := by omega
    have hm' : startMismatch s.cfg.variant (s.buf ++ [b]) = false := by
      rw [startMismatch_append, hm]
      have : 25 ≤ frameLen s.cfg.variant := by cases s.cfg.variant <;> decide
      omega
    have htake : (s.buf ++ [b]).take (frameLen s.cfg.variant) = s.buf ++ [b] := by rw [← heq, List.take_length]
    have hne : (s.buf ++ [b]).length ≠ 0 := by omega
    refine .inr ?_
    by_cases hv : validWindow s.cfg.variant (s.buf ++ [b]) = true
    · refine .inl ⟨heq, hv, ?_⟩
      have hdrop : bufDrop (s.buf ++ [b]) (frameLen s.cfg.variant) = [] := by rw [bufDrop, ← heq, List.drop_length]
      rw [hscan, scanLoop]
      simp only [hne, hm', hlt, htake, hv, hdrop, if_false, if_true, Bool.false_eq_true, List.nil_append]
      have : 0 < frameLen s.cfg.variant := by cases s.cfg.variant <;> decide
      exact scanLoop_short _ _ ⟨[], _, _, _⟩ (Nat.zero_le _) this
    · refine .inr ⟨heq, by simpa using hv, ?_⟩
      rw [hscan, scanLoop]
      simp only [hne, hm', hlt, htake, hv, if_false, Bool.false_eq_true, List.nil_append]
      rw [scanLoop_short _ _ _ (by simp [bufDrop]) (by simp only [bufDrop, List.length_drop]; omega)]
      rfl

/-- One `FD_FEED` leaves the buffer in normal form (R150). -/
theorem feedByte_bufNormal {s : State} (b : Byte) (hn : BufNormal s.cfg.variant s.buf)
    (hc : (frameLen s.cfg.variant : Int) ≤ s.cfg.par.bufCap) : BufNormal s.cfg.variant (feedByte b s).buf := by
  simp only [feedByte, applyScan_buf]
  rcases feedScan_cases b hn hc with ⟨h, e⟩ | ⟨h, -, e⟩ | ⟨h, -, e⟩ <;> rw [e]
  · exact ⟨startMismatch_skipTo _ _, (skipTo_length_le _ _).trans_lt h⟩
  · exact bufNormal_nil _
  · refine ⟨startMismatch_skipTo _ _, (skipTo_length_le _ _).trans_lt ?_⟩
    rw [List.length_drop]
    have : 25 ≤ frameLen s.cfg.variant := by cases s.cfg.variant <;> decide
    omega

/-! ### Bursts -/

@[simp] theorem feedBytes_nil (s : State) : feedBytes [] s = s := rfl

@[simp] theorem feedBytes_cons (b : Byte) (bs : List Byte) (s : State) :
    feedBytes (b :: bs) s = feedBytes bs (feedByte b s) := rfl

theorem feedBytes_append (a b : List Byte) (s : State) : feedBytes (a ++ b) s = feedBytes b (feedBytes a s) :=
  List.foldl_append ..

/-- A prefix of bytes that show no mismatch shows none. -/
theorem startMismatch_of_append {v : Variant} {a b : List Byte} (h : startMismatch v (a ++ b) = false) :
    startMismatch v a = false := by
  rcases a with _ | ⟨x, _ | ⟨y, a⟩⟩
  · rfl
  · cases v <;> simp_all [startMismatch, startPattern]
  · rwa [startMismatch_append (by simp)] at h

/-- Bytes that show no mismatch and complete no frame only collect (S2). -/
theorem feedBytes_wait (bs : List Byte) : ∀ s : State, (frameLen s.cfg.variant : Int) ≤ s.cfg.par.bufCap →
    startMismatch s.cfg.variant (s.buf ++ bs) = false → (s.buf ++ bs).length < frameLen s.cfg.variant →
    feedBytes bs s = { s with buf := s.buf ++ bs } := by
  induction bs with
  | nil => intro s _ _ _; simp
  | cons b bs ih =>
    intro s hc hm hl
    have hcons : s.buf ++ b :: bs = (s.buf ++ [b]) ++ bs := by simp
    rw [hcons] at hm hl ⊢
    have hm1 := startMismatch_of_append hm
    have hl1 : (s.buf ++ [b]).length < frameLen s.cfg.variant := by
      rw [List.length_append] at hl; omega
    have hn : BufNormal s.cfg.variant s.buf :=
      ⟨startMismatch_of_append hm1, by rw [List.length_append] at hl1; omega⟩
    have hf : feedByte b s = { s with buf := s.buf ++ [b] } := by
      rcases feedScan_cases b hn hc with ⟨-, e⟩ | ⟨h, -, -⟩ | ⟨h, -, -⟩
      · simp [feedByte, e, applyScan, skipTo_of_normal hm1]
      · omega
      · omega
    rw [feedBytes_cons, hf]
    exact ih _ hc hm hl

/-- All a burst can touch: the buffer, `last_good`, the outputs and the errors. -/
theorem feedBytes_frame (bs : List Byte) : ∀ s : State, feedBytes bs s = { s with
    buf := (feedBytes bs s).buf, lastGood := (feedBytes bs s).lastGood,
    outputs := (feedBytes bs s).outputs, errors := (feedBytes bs s).errors } := by
  induction bs with
  | nil => intro s; rfl
  | cons b bs ih => intro s; exact (ih (feedByte b s)).trans rfl

/-! ### The ChannelSets -/

/-- A parity channel is below 2048 (R110). -/
theorem parityChan_lt (w : List Byte) (k : Nat) : parityChan w k < 2048 := by
  rw [parityChan, show (0x7FF : Nat) = 2 ^ 11 - 1 from rfl, Nat.and_two_pow_sub_one_eq_mod]
  exact Nat.mod_lt _ (by norm_num)

/-- What the decoder emits has the form of its variant (R34). -/
theorem decodeWindow_channelsOf (v : Variant) (w : List Byte) : ChannelsOf v (decodeWindow v w) := by
  cases v with
  | interval =>
    intro k h1 h2
    obtain ⟨j, rfl⟩ : ∃ j, k = j + 1 := ⟨k - 1, by omega⟩
    have hj : j < 16 := by omega
    by_cases h : j < 14 <;> simp [decodeWindow, intervalChannels, chan, hj, h]
  | parity =>
    intro k h1 h2
    obtain ⟨j, rfl⟩ : ∃ j, k = j + 1 := ⟨k - 1, by omega⟩
    have hj : j < 16 := by omega
    have hp := parityChan_lt w (j + 1)
    refine ⟨BitVec.ofNat 16 (parityChan w (j + 1)), by simp [decodeWindow, parityChannels, chan, hj], ?_⟩
    rw [BitVec.toNat_ofNat]
    omega

end Sys2Proof
end

