-- ==== Sys2Proof/Laws/Motion.lean ====
section
/-! SUPPORT. Every part of `MSM_CYCLE` as one record update, so that no proof about the cycle unfolds it. -/

namespace Sys2Proof.Machine

/-! ### Channel readings -/

theorem inBand_iff {p : MapperParams} {v : Int} : inBand p v = true ↔ p.saneLo ≤ v ∧ v ≤ p.saneHi := by
  simp [inBand]

/-- `normalize` lies in [-1, 1]. -/
theorem normalize_bounds (p : MapperParams) (v : Int) : -1 ≤ normalizeChannel p v ∧ normalizeChannel p v ≤ 1 := by
  unfold normalizeChannel
  split
  · exact clamp_bounds (by norm_num)
  · norm_num

/-- The throttle of the Intent lies in [0, 100] (R185). -/
theorem throttleOf_bounds (p : MapperParams) (cs : ChannelSet) : 0 ≤ throttleOf p cs ∧ throttleOf p cs ≤ 100 := by
  unfold throttleOf
  split
  · norm_num
  · split
    · norm_num
    · obtain ⟨h1, h2⟩ := normalize_bounds p ‹Int›
      rw [absQ_eq_abs]
      have := abs_le.mpr ⟨h1, h2⟩
      have := abs_nonneg (normalizeChannel p ‹Int›)
      constructor <;> linarith

/-- A channel reads positive exactly when it is in band and more than the deadzone above the centre (R183). -/
theorem readingTri_eq_positive {p : MapperParams} {r : Option Int} : readingTri p r = .positive ↔
    ∃ v, r = some v ∧ p.saneLo ≤ v ∧ v ≤ p.saneHi ∧ p.deadzone < v - p.center := by
  cases r with
  | none => simp [readingTri]
  | some v =>
    simp only [readingTri, tri, Option.some.injEq, exists_eq_left']
    by_cases hb : inBand p v = true
    · have := inBand_iff.mp hb
      simp only [hb, this]
      split
      · simp_all
      · split
        · simp_all
        · split <;> simp_all
    · have : ¬ (p.saneLo ≤ v ∧ v ≤ p.saneHi) := fun h => hb (inBand_iff.mpr h)
      simp only [hb]
      simp
      omega

/-- The arming switch (R216). -/
theorem armSwitch_iff {cfg : Cfg} {cs : ChannelSet} : armSwitch cfg cs = true ↔
    ∃ v, raw cs cfg.par.mapper.chArm = some v ∧ cfg.par.mapper.saneLo ≤ v ∧ v ≤ cfg.par.mapper.saneHi ∧
      cfg.par.mapper.deadzone < v - cfg.par.mapper.center := by
  rw [← readingTri_eq_positive]
  simp [armSwitch]

/-- The low-throttle sample (R215). -/
theorem lowSample_iff {cfg : Cfg} {cs : ChannelSet} : lowSample cfg cs = true ↔
    ∃ v, raw cs cfg.par.mapper.chThrottle = some v ∧ cfg.par.mapper.saneLo ≤ v ∧ v ≤ cfg.par.mapper.saneHi ∧
      |v - cfg.par.mapper.center| ≤ cfg.par.motion.armBand := by
  unfold lowSample
  split
  · simp_all
  · simp_all [inBand_iff, and_assoc]

/-! ### The parts of a processed cycle -/

/-- All the range check can do (R211). -/
theorem checkRange_eq (cs : ChannelSet) (s : State) : checkRange cs s = { s with
    outputs := s.outputs ++ (if cmRange s.cfg cs = [] then [] else [.evRange (cmRange s.cfg cs)])
    errors := s.errors ++ (if cmRange s.cfg cs = [] then [] else [.rangeError (cmRange s.cfg cs)]) } := by
  unfold checkRange
  split
  · simp only [List.append_nil]
  · rfl

/-- All the Intent notification can do (R212). -/
theorem notifyIntent_eq (it : Intent) (s : State) : notifyIntent it s = { s with
    outputs := s.outputs ++ (if worthEmitting s.cfg s.prevIntent it then [.evIntent it] else [])
    prevIntent := if worthEmitting s.cfg s.prevIntent it then some it else s.prevIntent } := by
  unfold notifyIntent
  split
  · rfl
  · simp only [List.append_nil]

theorem worthEmitting_eq_false {cfg : Cfg} {prev : Option Intent} {it : Intent} :
    worthEmitting cfg prev it = false ↔ prev = some it ∧ it.mode ≠ cfg.par.mapper.modeVerbose := by
  simp [worthEmitting]

/-- All the arm transition can do (R217, R218). -/
theorem updateArm_eq (cs : ChannelSet) (s : State) : updateArm cs s = { s with
    outputs := s.outputs ++ (if armNext s.cfg cs s.lowCnt s.arm = s.arm then []
      else [.evArm s.arm (armNext s.cfg cs s.lowCnt s.arm)])
    arm := armNext s.cfg cs s.lowCnt s.arm } := by
  unfold updateArm
  by_cases h : armNext s.cfg cs s.lowCnt s.arm = s.arm
  · simp only [h, if_true, List.append_nil]
  · simp only [h, if_false]
    rfl

/-- All the brake flag's update can do (R220, R221). -/
theorem updateBrake_eq (cs : ChannelSet) (s : State) : updateBrake cs s = { s with
    outputs := s.outputs ++ (if brakeNext s.cfg cs s.brake = s.brake then []
      else [.evBrake (brakeNext s.cfg cs s.brake)])
    brake := brakeNext s.cfg cs s.brake } := by
  unfold updateBrake
  by_cases h : brakeNext s.cfg cs s.brake = s.brake
  · simp only [h, if_true, List.append_nil]
  · simp only [h, if_false]
    rfl

/-- The calls for a motor MSM has authority over (R226). -/
def motorCalls (d : Spin) (v : Q) (m : Motor) (b : Bool) (sent : Option Bool) : List Output :=
  [.setDirection m (d == .forward), .setDuty m v] ++ if sent = some b then [] else [.setBrake m b]

/-- All the command of one motor can do (R226, R227). -/
theorem driveMotor_eq (it : Intent) (ovr : PerMotor (Option Q)) (m : Motor) (s : State) : driveMotor it ovr m s =
    if s.tuneOwner = some m then s
    else { s with
      cmd := s.cmd.set m ⟨motorSpeed it ovr m s, motorDirection it m, s.brake⟩
      act := s.act.set m ⟨some (motorSpeed it ovr m s), some (motorDirection it m), some s.brake⟩
      outputs := s.outputs ++ motorCalls (motorDirection it m) (motorSpeed it ovr m s) m s.brake (s.act.get m).brake } := by
  unfold driveMotor
  split
  · rfl
  · simp only [sendBrakeIfChanged_eq]
    simp [sendDuty, sendDirection, State.setCmd, State.setAct, State.emit, motorCalls, List.append_assoc]

/-- All the not-armed advisory can do (R228). -/
theorem adviseNotArmed_eq (it : Intent) (ovr : PerMotor (Option Q)) (t : Time) (s : State) :
    adviseNotArmed it ovr t s =
      if s.arm ≠ .armed ∧ moving it = true ∧ (dutyRequest it ovr .L > 0 ∨ dutyRequest it ovr .R > 0) then
        { s with
          errors := s.errors ++ [.notArmedError]
          outputs := s.outputs ++ (if advisoryDue s.cfg s.lastAdv t then [.evNotArmed t] else [])
          lastAdv := if advisoryDue s.cfg s.lastAdv t then some t else s.lastAdv }
      else s := by
  unfold adviseNotArmed
  split
  · dsimp only [State.raise]
    cases h : advisoryDue s.cfg s.lastAdv t
    · simp
    · simp [State.emit]
  · rfl

/-- The cycle in `WARMUP` (R214). -/
theorem warmupCycle_eq (s : State) : warmupCycle s = { s with
    warmCnt := s.warmCnt + 1
    arm := if ((s.warmCnt + 1 : Nat) : Int) ≥ s.cfg.par.motion.warmupCount then .idleUnarmed else s.arm
    outputs := s.outputs ++ (if ((s.warmCnt + 1 : Nat) : Int) ≥ s.cfg.par.motion.warmupCount then
      [.evArm .warmup .idleUnarmed] else []) } := by
  unfold warmupCycle
  by_cases h : ((s.warmCnt + 1 : Nat) : Int) ≥ s.cfg.par.motion.warmupCount
  · simp only [h, if_true]
    rfl
  · simp only [h, if_false, List.append_nil]

/-! ### Values of a cycle -/

/-- The duty request lies in [0, 1] (R225). -/
theorem dutyRequest_bounds (cfg : Cfg) (cs : ChannelSet) (ovr : PerMotor (Option Q)) (m : Motor) :
    0 ≤ dutyRequest (cmMap cfg cs) ovr m ∧ dutyRequest (cmMap cfg cs) ovr m ≤ 1 := by
  unfold dutyRequest
  split
  · exact clamp_bounds (by norm_num)
  · obtain ⟨h1, h2⟩ := throttleOf_bounds cfg.par.mapper cs
    simp only [cmMap]
    constructor <;> linarith

/-- The speed lies in [0, 1], whatever the state (R45, R225). -/
theorem motorSpeed_bounds (cfg : Cfg) (cs : ChannelSet) (ovr : PerMotor (Option Q)) (m : Motor) (s : State) :
    0 ≤ motorSpeed (cmMap cfg cs) ovr m s ∧ motorSpeed (cmMap cfg cs) ovr m s ≤ 1 := by
  unfold motorSpeed
  split
  · exact dutyRequest_bounds cfg cs ovr m
  · norm_num

/-- A processed frame never leads to `WARMUP` (R213). -/
theorem armNext_ne_warmup {cfg : Cfg} {cs : ChannelSet} {n : Nat} {a : ArmState} (h : a ≠ .warmup) :
    armNext cfg cs n a ≠ .warmup := by
  cases a with
  | warmup => exact absurd rfl h
  | idleUnarmed => simp only [armNext]; split <;> simp
  | armed => simp only [armNext]; split <;> simp

/-! ### The cycle from its parts -/

/-- The state of a processed cycle before the motors are driven: notifications, arm state, brake flag. -/
def settled (cs : ChannelSet) (s : State) : State :=
  updateBrake cs (updateArm cs (updateLow cs (notifyIntent (cmMap s.cfg cs) (checkRange cs s))))

/-- All of a processed cycle before the motors are driven (R211 to R221). -/
theorem settled_eq (cs : ChannelSet) (s : State) : settled cs s = { s with
    prevIntent := if worthEmitting s.cfg s.prevIntent (cmMap s.cfg cs) then some (cmMap s.cfg cs) else s.prevIntent
    lowCnt := lowNext s.cfg cs s.lowCnt
    arm := armNext s.cfg cs (lowNext s.cfg cs s.lowCnt) s.arm
    brake := brakeNext s.cfg cs s.brake
    outputs := s.outputs ++ (if cmRange s.cfg cs = [] then [] else [.evRange (cmRange s.cfg cs)]) ++
      (if worthEmitting s.cfg s.prevIntent (cmMap s.cfg cs) then [.evIntent (cmMap s.cfg cs)] else []) ++
      (if armNext s.cfg cs (lowNext s.cfg cs s.lowCnt) s.arm = s.arm then []
        else [.evArm s.arm (armNext s.cfg cs (lowNext s.cfg cs s.lowCnt) s.arm)]) ++
      (if brakeNext s.cfg cs s.brake = s.brake then [] else [.evBrake (brakeNext s.cfg cs s.brake)])
    errors := s.errors ++ (if cmRange s.cfg cs = [] then [] else [.rangeError (cmRange s.cfg cs)]) } := by
  simp only [settled, updateBrake_eq, updateArm_eq, updateLow, notifyIntent_eq, checkRange_eq]

/-- A processed cycle is: settle, drive left, drive right, advise. -/
theorem processedCycle_eq (cs : ChannelSet) (t : Time) (ovr : PerMotor (Option Q)) (s : State) :
    processedCycle cs t ovr s = adviseNotArmed (cmMap s.cfg cs) ovr t
      (driveMotor (cmMap s.cfg cs) ovr .R (driveMotor (cmMap s.cfg cs) ovr .L (settled cs s))) := rfl

/-- All driving one motor can touch. -/
theorem driveMotor_frame (it : Intent) (ovr : PerMotor (Option Q)) (m : Motor) (s : State) :
    driveMotor it ovr m s = { s with
      cmd := (driveMotor it ovr m s).cmd, act := (driveMotor it ovr m s).act
      outputs := (driveMotor it ovr m s).outputs } := by
  rw [driveMotor_eq]
  split <;> rfl

/-- All the advisory can touch. -/
theorem adviseNotArmed_frame (it : Intent) (ovr : PerMotor (Option Q)) (t : Time) (s : State) :
    adviseNotArmed it ovr t s = { s with
      lastAdv := (adviseNotArmed it ovr t s).lastAdv, outputs := (adviseNotArmed it ovr t s).outputs
      errors := (adviseNotArmed it ovr t s).errors } := by
  rw [adviseNotArmed_eq]
  split <;> rfl

/-- The command of each motor after one is driven. -/
theorem driveMotor_cmd_get (it : Intent) (ovr : PerMotor (Option Q)) (m n : Motor) (s : State) :
    (driveMotor it ovr m s).cmd.get n = if m = n ∧ s.tuneOwner ≠ some m then
      ⟨motorSpeed it ovr m s, motorDirection it m, s.brake⟩ else s.cmd.get n := by
  rw [driveMotor_eq]
  by_cases h : s.tuneOwner = some m
  · simp [h]
  · by_cases h2 : m = n
    · subst h2; simp [h]
    · simp [h, h2, PerMotor.get_set_ne s.cmd _ (Ne.symm h2)]

/-- The actuation shadow of each motor after one is driven. -/
theorem driveMotor_act_get (it : Intent) (ovr : PerMotor (Option Q)) (m n : Motor) (s : State) :
    (driveMotor it ovr m s).act.get n = if m = n ∧ s.tuneOwner ≠ some m then
      ⟨some (motorSpeed it ovr m s), some (motorDirection it m), some s.brake⟩ else s.act.get n := by
  rw [driveMotor_eq]
  by_cases h : s.tuneOwner = some m
  · simp [h]
  · by_cases h2 : m = n
    · subst h2; simp [h]
    · simp [h, h2, PerMotor.get_set_ne s.act _ (Ne.symm h2)]

/-- The speed depends on the state through the arm state and the brake flag only. -/
theorem motorSpeed_congr (it : Intent) (ovr : PerMotor (Option Q)) (m : Motor) {s s' : State} (h1 : s.arm = s'.arm)
    (h2 : s.brake = s'.brake) : motorSpeed it ovr m s = motorSpeed it ovr m s' := by
  simp [motorSpeed, h1, h2]

/-- What driving a motor and advising leave alone, field by field. -/
@[simp] theorem driveMotor_cfg (it : Intent) (ovr : PerMotor (Option Q)) (m : Motor) (s : State) :
    (driveMotor it ovr m s).cfg = s.cfg := by rw [driveMotor_frame]
@[simp] theorem driveMotor_arm (it : Intent) (ovr : PerMotor (Option Q)) (m : Motor) (s : State) :
    (driveMotor it ovr m s).arm = s.arm := by rw [driveMotor_frame]
@[simp] theorem driveMotor_brake (it : Intent) (ovr : PerMotor (Option Q)) (m : Motor) (s : State) :
    (driveMotor it ovr m s).brake = s.brake := by rw [driveMotor_frame]
@[simp] theorem driveMotor_lowCnt (it : Intent) (ovr : PerMotor (Option Q)) (m : Motor) (s : State) :
    (driveMotor it ovr m s).lowCnt = s.lowCnt := by rw [driveMotor_frame]
@[simp] theorem driveMotor_lastAdv (it : Intent) (ovr : PerMotor (Option Q)) (m : Motor) (s : State) :
    (driveMotor it ovr m s).lastAdv = s.lastAdv := by rw [driveMotor_frame]
@[simp] theorem driveMotor_prevIntent (it : Intent) (ovr : PerMotor (Option Q)) (m : Motor) (s : State) :
    (driveMotor it ovr m s).prevIntent = s.prevIntent := by rw [driveMotor_frame]
@[simp] theorem driveMotor_tuneOwner (it : Intent) (ovr : PerMotor (Option Q)) (m : Motor) (s : State) :
    (driveMotor it ovr m s).tuneOwner = s.tuneOwner := by rw [driveMotor_frame]
@[simp] theorem driveMotor_errors (it : Intent) (ovr : PerMotor (Option Q)) (m : Motor) (s : State) :
    (driveMotor it ovr m s).errors = s.errors := by rw [driveMotor_frame]
@[simp] theorem adviseNotArmed_arm (it : Intent) (ovr : PerMotor (Option Q)) (t : Time) (s : State) :
    (adviseNotArmed it ovr t s).arm = s.arm := by rw [adviseNotArmed_frame]
@[simp] theorem adviseNotArmed_brake (it : Intent) (ovr : PerMotor (Option Q)) (t : Time) (s : State) :
    (adviseNotArmed it ovr t s).brake = s.brake := by rw [adviseNotArmed_frame]
@[simp] theorem adviseNotArmed_lowCnt (it : Intent) (ovr : PerMotor (Option Q)) (t : Time) (s : State) :
    (adviseNotArmed it ovr t s).lowCnt = s.lowCnt := by rw [adviseNotArmed_frame]
@[simp] theorem adviseNotArmed_cmd (it : Intent) (ovr : PerMotor (Option Q)) (t : Time) (s : State) :
    (adviseNotArmed it ovr t s).cmd = s.cmd := by rw [adviseNotArmed_frame]
@[simp] theorem adviseNotArmed_act (it : Intent) (ovr : PerMotor (Option Q)) (t : Time) (s : State) :
    (adviseNotArmed it ovr t s).act = s.act := by rw [adviseNotArmed_frame]
@[simp] theorem adviseNotArmed_prevIntent (it : Intent) (ovr : PerMotor (Option Q)) (t : Time) (s : State) :
    (adviseNotArmed it ovr t s).prevIntent = s.prevIntent := by rw [adviseNotArmed_frame]

/-- The arm state, the low-sample count and the brake flag after a processed cycle. -/
theorem processedCycle_flags (cs : ChannelSet) (t : Time) (ovr : PerMotor (Option Q)) (s : State) :
    (processedCycle cs t ovr s).arm = armNext s.cfg cs (lowNext s.cfg cs s.lowCnt) s.arm ∧
    (processedCycle cs t ovr s).lowCnt = lowNext s.cfg cs s.lowCnt ∧
    (processedCycle cs t ovr s).brake = brakeNext s.cfg cs s.brake := by
  rw [processedCycle_eq]
  simp [settled_eq]

/-- All a processed cycle can touch (R210). -/
theorem processedCycle_frame (cs : ChannelSet) (t : Time) (ovr : PerMotor (Option Q)) (s : State) :
    ∃ arm low brake prev adv cmd act outs errs, processedCycle cs t ovr s = { s with
      arm := arm, lowCnt := low, brake := brake, prevIntent := prev, lastAdv := adv, cmd := cmd, act := act,
      outputs := outs, errors := errs } := by
  rw [processedCycle_eq, adviseNotArmed_frame, driveMotor_frame, driveMotor_frame, settled_eq]
  exact ⟨_, _, _, _, _, _, _, _, _, rfl⟩

end Sys2Proof.Machine
end

