-- ==== Sys2Proof/Laws/PerInstr.lean ====
section
/-! SUPPORT. Per instruction: an operation that has a code of 30_encoding.md R125 is encoded on the command port
with that code as its first byte. -/

namespace Sys2Proof.Laws.EncodedOpcode

/-- The encoding of an operation with an operation code begins with that code. -/
def Statement (i : Instr) : Prop :=
  ∀ k, i.opCode = some k → ∃ rest, encode i = ⟨.command, BitVec.ofNat 8 k :: rest⟩

theorem iframe (ch : Vector U16 14) (cksum : U16) : Statement (.iframe ch cksum) := fun k h => by cases h
theorem pframe (ch : Vector U11 16) (b23 : Byte) : Statement (.pframe ch b23) := fun k h => by cases h
theorem reset (variant : Option Variant) (par : Params) : Statement (.reset variant par) :=
  fun k h => by cases h; exact ⟨_, rfl⟩
theorem fdFeed (b : Byte) : Statement (.fdFeed b) := fun k h => by cases h; exact ⟨_, rfl⟩
theorem msmCycle (cs : ChannelSet) (t : Time) (ovr : PerMotor (Option Q)) : Statement (.msmCycle cs t ovr) :=
  fun k h => by cases h; exact ⟨_, rfl⟩
theorem preSample (m : Motor) (delta : Nat) (elapsed : Q) : Statement (.preSample m delta elapsed) :=
  fun k h => by cases h; exact ⟨_, rfl⟩
theorem preTick (m : Motor) (count : Nat) (t : Time) : Statement (.preTick m count t) :=
  fun k h => by cases h; exact ⟨_, rfl⟩
theorem pidUpdate (m : Motor) (meas : Q) (t : Time) : Statement (.pidUpdate m meas t) :=
  fun k h => by cases h; exact ⟨_, rfl⟩
theorem pidReset (m : Motor) : Statement (.pidReset m) := fun k h => by cases h; exact ⟨_, rfl⟩
theorem pidSetGains (m : Motor) (kp ki kd : Q) : Statement (.pidSetGains m kp ki kd) :=
  fun k h => by cases h; exact ⟨_, rfl⟩
theorem pidSetSetpoint (m : Motor) (sp : Q) : Statement (.pidSetSetpoint m sp) :=
  fun k h => by cases h; exact ⟨_, rfl⟩
theorem pidSetBounds (m : Motor) (lo hi : Q) : Statement (.pidSetBounds m lo hi) :=
  fun k h => by cases h; exact ⟨_, rfl⟩
theorem atStart (m : Motor) (sp : Q) (t : Time) : Statement (.atStart m sp t) :=
  fun k h => by cases h; exact ⟨_, rfl⟩
theorem atSample (rate : Q) (t : Time) : Statement (.atSample rate t) := fun k h => by cases h; exact ⟨_, rfl⟩
theorem atCancel : Statement .atCancel := fun k h => by cases h; exact ⟨_, rfl⟩
theorem cmMap (cs : ChannelSet) : Statement (.cmMap cs) := fun k h => by cases h; exact ⟨_, rfl⟩
theorem preRpm (m : Motor) (rate : Q) : Statement (.preRpm m rate) := fun k h => by cases h; exact ⟨_, rfl⟩
theorem reservedF : Statement .reservedF := fun k h => by cases h; exact ⟨_, rfl⟩
theorem fdFeedBurst (bytes : List Byte) : Statement (.fdFeedBurst bytes) := fun k h => by cases h
theorem loopPoll (bytes : List Byte) (t : Time) (ovr : PerMotor (Option Q)) : Statement (.loopPoll bytes t ovr) :=
  fun k h => by cases h
theorem cmRange (cs : ChannelSet) : Statement (.cmRange cs) := fun k h => by cases h

end Sys2Proof.Laws.EncodedOpcode
end

