-- ==== Sys2Proof/Laws/Tuner.lean ====
section
/-! SUPPORT. The shared operations of the AutoTuner as record updates, and the crossing rule case by case. -/

namespace Sys2Proof.Machine

/-! ### What the PID updates leave alone, and what they set -/

@[simp] theorem pidClear_kp (p : PidRegs) : (pidClear p).kp = p.kp := rfl
@[simp] theorem pidClear_ki (p : PidRegs) : (pidClear p).ki = p.ki := rfl
@[simp] theorem pidClear_kd (p : PidRegs) : (pidClear p).kd = p.kd := rfl
@[simp] theorem pidClear_sp (p : PidRegs) : (pidClear p).sp = p.sp := rfl
@[simp] theorem pidClear_outMin (p : PidRegs) : (pidClear p).outMin = p.outMin := rfl
@[simp] theorem pidClear_outMax (p : PidRegs) : (pidClear p).outMax = p.outMax := rfl
@[simp] theorem pidClear_integ (p : PidRegs) : (pidClear p).integ = 0 := rfl
@[simp] theorem pidClear_ePrev (p : PidRegs) : (pidClear p).ePrev = 0 := rfl
@[simp] theorem pidClear_tPrev (p : PidRegs) : (pidClear p).tPrev = none := rfl
@[simp] theorem pidClear_lastU (p : PidRegs) : (pidClear p).lastU = p.lastU := rfl
@[simp] theorem pidClear_lastOut (p : PidRegs) : (pidClear p).lastOut = p.lastOut := rfl

@[simp] theorem pidStep_kp (cfg : Cfg) (x : Q) (t : Time) (p : PidRegs) : (pidStep cfg x t p).kp = p.kp := rfl
@[simp] theorem pidStep_ki (cfg : Cfg) (x : Q) (t : Time) (p : PidRegs) : (pidStep cfg x t p).ki = p.ki := rfl
@[simp] theorem pidStep_kd (cfg : Cfg) (x : Q) (t : Time) (p : PidRegs) : (pidStep cfg x t p).kd = p.kd := rfl
@[simp] theorem pidStep_sp (cfg : Cfg) (x : Q) (t : Time) (p : PidRegs) : (pidStep cfg x t p).sp = p.sp := rfl
@[simp] theorem pidStep_outMin (cfg : Cfg) (x : Q) (t : Time) (p : PidRegs) : (pidStep cfg x t p).outMin = p.outMin := rfl
@[simp] theorem pidStep_outMax (cfg : Cfg) (x : Q) (t : Time) (p : PidRegs) : (pidStep cfg x t p).outMax = p.outMax := rfl
@[simp] theorem pidStep_ePrev (cfg : Cfg) (x : Q) (t : Time) (p : PidRegs) : (pidStep cfg x t p).ePrev = p.sp - x := rfl
@[simp] theorem pidStep_tPrev (cfg : Cfg) (x : Q) (t : Time) (p : PidRegs) : (pidStep cfg x t p).tPrev = some t := rfl

@[simp] theorem trialPid_kp (cfg : Cfg) (k : Nat) (sp : Q) (p : PidRegs) : (trialPid cfg k sp p).kp = trialGain cfg k := rfl
@[simp] theorem trialPid_ki (cfg : Cfg) (k : Nat) (sp : Q) (p : PidRegs) : (trialPid cfg k sp p).ki = 0 := rfl
@[simp] theorem trialPid_kd (cfg : Cfg) (k : Nat) (sp : Q) (p : PidRegs) : (trialPid cfg k sp p).kd = 0 := rfl
@[simp] theorem trialPid_sp (cfg : Cfg) (k : Nat) (sp : Q) (p : PidRegs) : (trialPid cfg k sp p).sp = sp := rfl
@[simp] theorem trialPid_outMin (cfg : Cfg) (k : Nat) (sp : Q) (p : PidRegs) : (trialPid cfg k sp p).outMin = p.outMin := rfl
@[simp] theorem trialPid_outMax (cfg : Cfg) (k : Nat) (sp : Q) (p : PidRegs) : (trialPid cfg k sp p).outMax = p.outMax := rfl
@[simp] theorem trialPid_integ (cfg : Cfg) (k : Nat) (sp : Q) (p : PidRegs) : (trialPid cfg k sp p).integ = 0 := rfl
@[simp] theorem trialPid_ePrev (cfg : Cfg) (k : Nat) (sp : Q) (p : PidRegs) : (trialPid cfg k sp p).ePrev = 0 := rfl
@[simp] theorem trialPid_tPrev (cfg : Cfg) (k : Nat) (sp : Q) (p : PidRegs) : (trialPid cfg k sp p).tPrev = none := rfl
@[simp] theorem trialPid_lastU (cfg : Cfg) (k : Nat) (sp : Q) (p : PidRegs) : (trialPid cfg k sp p).lastU = p.lastU := rfl
@[simp] theorem trialPid_lastOut (cfg : Cfg) (k : Nat) (sp : Q) (p : PidRegs) : (trialPid cfg k sp p).lastOut = p.lastOut := rfl

@[simp] theorem finishPid_outMin (res : TuneResult) (sv : SavedGains) (p : PidRegs) :
    (finishPid res sv p).outMin = p.outMin := by cases res <;> rfl
@[simp] theorem finishPid_outMax (res : TuneResult) (sv : SavedGains) (p : PidRegs) :
    (finishPid res sv p).outMax = p.outMax := by cases res <;> rfl
@[simp] theorem finishPid_lastU (res : TuneResult) (sv : SavedGains) (p : PidRegs) :
    (finishPid res sv p).lastU = p.lastU := by cases res <;> rfl
@[simp] theorem finishPid_lastOut (res : TuneResult) (sv : SavedGains) (p : PidRegs) :
    (finishPid res sv p).lastOut = p.lastOut := by cases res <;> rfl
@[simp] theorem finishPid_sp (res : TuneResult) (sv : SavedGains) (p : PidRegs) :
    (finishPid res sv p).sp = sv.sp := by cases res <;> rfl

/-! ### The tuner's operations -/

/-- All `begin_trial` can do (R313). -/
theorem beginTrial_eq (t : Time) (s : State) : beginTrial t s = { s with
    pid := s.pid.set s.tuner.motor (trialPid s.cfg s.tuner.k s.tuner.sp (s.pid.get s.tuner.motor))
    tuner := trialRegs t s.tuner } := rfl

/-- What a result announces besides itself (R328). -/
def finishNoteOutputs (m : Motor) : TuneResult → List Output
  | .success ku pu _ _ _ => [.evOscDetected m ku pu]
  | .failure => []
  | .aborted => []

/-- The error of a result (R328). -/
def finishNoteErrors : TuneResult → List ErrorCond
  | .success .. => []
  | .failure => [.tuningFailure]
  | .aborted => []

/-- All `finish` can do (R328). -/
theorem finish_eq (res : TuneResult) (s : State) : finish res s = { s with
    cmd := s.cmd.set s.tuner.motor ⟨0, .forward, true⟩
    act := s.act.set s.tuner.motor { s.act.get s.tuner.motor with duty := some 0, brake := some true }
    pid := s.pid.set s.tuner.motor (finishPid res s.tuner.saved (s.pid.get s.tuner.motor))
    tuner := finishRegs res s.tuner
    tuneOwner := none
    outputs := s.outputs ++ [.setDuty s.tuner.motor 0, .setBrake s.tuner.motor true] ++
      finishNoteOutputs s.tuner.motor res ++ [.evTuneResult s.tuner.motor res]
    errors := s.errors ++ finishNoteErrors res } := by
  cases res <;>
    simp [finish, finishNote, finishNoteOutputs, finishNoteErrors, sendBrake, sendDuty, State.setCmd, State.setAct,
      State.setPid, State.setTuner, State.emit, State.raise, List.append_assoc]

/-- All `AT_START` on an idle tuner can do (R310). -/
theorem startTuner_eq (m : Motor) (sp : Q) (t : Time) (s : State) : startTuner m sp t s = { s with
    pid := s.pid.set m (trialPid s.cfg 0 sp (s.pid.get m))
    cmd := s.cmd.set m ⟨0, .forward, false⟩
    act := s.act.set m ⟨some 0, some .forward, some false⟩
    tuner := trialRegs t { s.tuner with
      saved := ⟨(s.pid.get m).kp, (s.pid.get m).ki, (s.pid.get m).kd, (s.pid.get m).sp⟩
      motor := m, sp := sp, result := none, cancel := false, phase := .running, k := 0, sweepStart := t }
    tuneOwner := some m
    outputs := s.outputs ++ [.setDirection m true, .setDuty m 0, .setBrake m false] } := by
  simp [startTuner, beginTrial, sendBrake, sendDuty, sendDirection, State.setCmd, State.setAct, State.setPid,
    State.setTuner, State.emit, List.append_assoc]

/-- All the sample itself can do (R314, R316). -/
theorem tunerSample_eq (rate : Q) (t : Time) (s : State) : tunerSample rate t s = { s with
    pid := s.pid.set s.tuner.motor (pidStep s.cfg rate t (s.pid.get s.tuner.motor))
    cmd := s.cmd.set s.tuner.motor
      ⟨clamp (pidStep s.cfg rate t (s.pid.get s.tuner.motor)).lastOut 0 1, .forward, false⟩
    act := s.act.set s.tuner.motor { s.act.get s.tuner.motor with
      duty := some (clamp (pidStep s.cfg rate t (s.pid.get s.tuner.motor)).lastOut 0 1) }
    tuner := recordCrossing ((s.pid.get s.tuner.motor).sp - rate) t s.tuner
    outputs := s.outputs ++
      [.setDuty s.tuner.motor (clamp (pidStep s.cfg rate t (s.pid.get s.tuner.motor)).lastOut 0 1)] } := by
  simp [tunerSample, pidUpdate, sendDuty, State.setCmd, State.setAct, State.setPid, State.setTuner, State.emit]

/-! ### Crossings (R318) -/

/-- What `record_crossing` never touches. -/
theorem recordCrossing_frame (e : Q) (t : Time) (r : TunerRegs) : recordCrossing e t r = { r with
    c1 := (recordCrossing e t r).c1, c2 := (recordCrossing e t r).c2, c3 := (recordCrossing e t r).c3,
    crossCnt := (recordCrossing e t r).crossCnt, lastSign := (recordCrossing e t r).lastSign } := by
  unfold recordCrossing
  split
  · rfl
  · split <;> rfl

@[simp] theorem recordCrossing_motor (e : Q) (t : Time) (r : TunerRegs) : (recordCrossing e t r).motor = r.motor := by
  rw [recordCrossing_frame]

@[simp] theorem recordCrossing_sp (e : Q) (t : Time) (r : TunerRegs) : (recordCrossing e t r).sp = r.sp := by
  rw [recordCrossing_frame]

@[simp] theorem recordCrossing_k (e : Q) (t : Time) (r : TunerRegs) : (recordCrossing e t r).k = r.k := by
  rw [recordCrossing_frame]

@[simp] theorem recordCrossing_phase (e : Q) (t : Time) (r : TunerRegs) : (recordCrossing e t r).phase = r.phase := by
  rw [recordCrossing_frame]

@[simp] theorem recordCrossing_saved (e : Q) (t : Time) (r : TunerRegs) : (recordCrossing e t r).saved = r.saved := by
  rw [recordCrossing_frame]

@[simp] theorem recordCrossing_result (e : Q) (t : Time) (r : TunerRegs) : (recordCrossing e t r).result = r.result := by
  rw [recordCrossing_frame]

@[simp] theorem recordCrossing_cancel (e : Q) (t : Time) (r : TunerRegs) : (recordCrossing e t r).cancel = r.cancel := by
  rw [recordCrossing_frame]

@[simp] theorem recordCrossing_trialStart (e : Q) (t : Time) (r : TunerRegs) :
    (recordCrossing e t r).trialStart = r.trialStart := by
  rw [recordCrossing_frame]

@[simp] theorem recordCrossing_sweepStart (e : Q) (t : Time) (r : TunerRegs) :
    (recordCrossing e t r).sweepStart = r.sweepStart := by
  rw [recordCrossing_frame]

theorem laterThanCrossing_iff {c1 : Option Time} {t : Time} :
    laterThanCrossing c1 t = true ↔ ∀ c, c1 = some c → c < t := by
  cases c1 <;> simp [laterThanCrossing]

/-- The three things a sample can do to the crossing registers (R318). -/
theorem recordCrossing_cases (e : Q) (t : Time) (r : TunerRegs) :
    (sign e = .zero ∧ recordCrossing e t r = r) ∨
    (sign e ≠ .zero ∧ (∀ c, r.c1 = some c → c < t) ∧ recordCrossing e t r = { r with
      c3 := r.c2, c2 := r.c1, c1 := some t, crossCnt := r.crossCnt + 1, lastSign := sign e }) ∨
    (sign e ≠ .zero ∧ recordCrossing e t r = { r with lastSign := sign e }) := by
  unfold recordCrossing
  split
  · exact .inl ⟨‹_›, rfl⟩
  · split
    · rename_i h1 h2
      exact .inr (.inl ⟨h1, laterThanCrossing_iff.mp h2.2, rfl⟩)
    · exact .inr (.inr ⟨‹_›, rfl⟩)

end Sys2Proof.Machine
end

