-- ==== Sys2Proof/Tests/Slice0.lean ====
section
/-! SUPPORT. Tests. Expected values are the vectors of spec/95_test_vectors.md (named in the comments) or written out
by hand from the rule a comment names; none is the model's own answer. -/

namespace Sys2Proof.Tests

section

-- One theorem after another: many kernel evaluations at once would ask for more threads than a small machine has.
set_option Elab.async false

open Sys2Proof.Machine

/-! ### Helpers -/

/-- The state after an operation. -/
def after (i : Instr) (s : State) : State :=
  match exec i s with
  | .next s' => s'
  | _ => s

/-- The state an operation answers, when it answers a next state. -/
def ran (i : Instr) (s : State) : Option State :=
  match exec i s with
  | .next s' => some s'
  | _ => none

/-- The state a step answers, when it answers a next state. -/
def stepped (s : State) : Option State :=
  match step s with
  | .next s' => some s'
  | _ => none

/-- A ChannelSet in the notation of R130: the named channels, all others of the fourteen 1500. -/
def sticks (named : List (Nat × U16)) : ChannelSet :=
  Vector.ofFn fun i => if i.val < 14 then some ((named.lookup (i.val + 1)).getD 1500) else none

/-- The same value on both motors. -/
def both {α : Type} (a : α) : PerMotor α := ⟨a, a⟩

/-- No override. -/
def noOvr : PerMotor (Option Q) := both none

/-- A parity instance right after reset. -/
def parityReset : State := State.resetWith ⟨.parity, .default⟩

/-- After reset and two warmup cycles. -/
def idle : State := { State.reset with arm := .idleUnarmed, warmCnt := 2 }

/-- Armed, brake released, as after cycle c5 of program 2. -/
def armed : State :=
  { idle with arm := .armed, lowCnt := 3, brake := false, act := both ⟨some 0, some .forward, some false⟩ }

/-- The tuner running on the left motor, set up by hand from R310 (`AT_START L, sp=10, t=0` after reset). -/
def tuning : State :=
  { State.reset with
    tuner := { State.reset.tuner with phase := .running, sp := 10, saved := ⟨1, 0, 0, 0⟩ }
    tuneOwner := some .L
    pid := State.reset.pid.set .L { State.reset.pid.l with sp := 10 } }

/-- `tuning` with five crossings at times 9/10, 7/10, 1/2, .. and setpoint 0: T7 before its sixth sample. -/
def nearlyTuned : State :=
  { tuning with
    tuner := { tuning.tuner with
      sp := 0, crossCnt := 5, c1 := some (9 / 10), c2 := some (7 / 10), c3 := some (1 / 2), lastSign := .pos }
    pid := State.reset.pid }

/-- The bytes of packet VI1 but for its last. -/
def vi1Head : List Byte :=
  [0x20, 0x40, 0xDC, 0x05, 0xDC, 0x05, 0xDC, 0x05, 0xDC, 0x05, 0xDC, 0x05, 0xDC, 0x05, 0xDC, 0x05, 0xDC, 0x05,
   0xDC, 0x05, 0xDC, 0x05, 0xDC, 0x05, 0xDC, 0x05, 0xDC, 0x05, 0xDC, 0x05, 0x51]

/-- The bytes of frame VP2. -/
def vp2 : List Byte :=
  [0x0F, 0x65, 0x50, 0xC6, 0x4B, 0x28, 0x93, 0x1F, 0x2F, 0x0D, 0x0B, 0x65, 0x8D, 0x93, 0xDF, 0x15, 0x79, 0x19,
   0x52, 0xC3, 0xAE, 0x17, 0xCA, 0x00, 0x00]

/-- The channels of VP2: 101, 202, .., 1616. -/
def vp2Channels : Vector U11 16 := Vector.ofFn fun i => BitVec.ofNat 11 (101 * (i.val + 1))

/-- The bytes of packet VI2. -/
def vi2 : List Byte :=
  [0x20, 0x40, 0xDC, 0x05, 0xDC, 0x05, 0xE8, 0x03, 0xDC, 0x05, 0xD0, 0x07, 0xE8, 0x03, 0xDC, 0x05, 0xB0, 0x04,
   0x08, 0x07, 0xDD, 0x05, 0xA9, 0x05, 0x0F, 0x06, 0x00, 0x00, 0xFF, 0xFF, 0x08, 0xF5]

/-- The channels of VI2. -/
def vi2Channels : Vector U16 14 :=
  #v[1500, 1500, 1000, 1500, 2000, 1000, 1500, 1200, 1800, 1501, 1449, 1551, 0, 65535]

/-- A tiny configuration, for the encoding of `RESET`: every number is 0 but where a comment says otherwise. -/
def zeroPar : Params :=
  { bufCap := 0
    mapper := ⟨0, 0, 0, 0, 0, 0, [], .normal, .normal, false, 0, 0, 0, 0, 0, 0, 0⟩
    motion := ⟨0, 0, 0, 0, 0, 0⟩
    ppr := both 0
    pidInit := both ⟨0, 0, 0, 0, 0, 0⟩
    antiWindup := false
    tuner := ⟨0, 0, 0, 0, 0, 0, 0, 0, 0⟩
    numRnd := .exact }

/-! ### WellFormed: a negative `Time` is refused (R19) -/

theorem test_negative_time_refused :
    (Instr.msmCycle (sticks []) (-1) noOvr).wellFormed = false ∧ (Instr.preTick .L 0 (-1)).wellFormed = false ∧
    (Instr.pidUpdate .L 0 (-1 / 2)).wellFormed = false ∧ (Instr.atStart .L 0 (-1)).wellFormed = false ∧
    (Instr.atSample 0 (-1)).wellFormed = false ∧ (Instr.loopPoll [] (-1) noOvr).wellFormed = false := by decide +kernel

theorem test_zero_time_accepted :
    (Instr.msmCycle (sticks []) 0 noOvr).wellFormed = true ∧ (Instr.preSample .L 0 (-1)).wellFormed = true := by
  decide +kernel

/-! ### Decoding: words written out from R101, R108 and the codes of R125 -/

theorem test_decode_iframe : decodeRequest ⟨.transport, vi2⟩ = .ok (.iframe vi2Channels 0xF508) := by decide +kernel
theorem test_decode_pframe : decodeRequest ⟨.transport, vp2⟩ = .ok (.pframe vp2Channels 0) := by decide +kernel
theorem test_decode_reset : decodeRequest ⟨.command, 0x0 :: 2 :: List.replicate 79 0⟩ = .ok (.reset (some .parity) zeroPar) := by
  decide +kernel
theorem test_decode_fdFeed : decodeRequest ⟨.command, [0x1, 0xF3]⟩ = .ok (.fdFeed 0xF3) := by decide +kernel
theorem test_decode_msmCycle :
    decodeRequest ⟨.command, [0x2] ++ [1, 0xDC, 0x05] ++ List.replicate 15 0 ++ [2, 49] ++ [1, 6, 1, 0]⟩ =
    .ok (.msmCycle (Vector.ofFn fun i => if i.val = 0 then some 1500 else none) (1 / 50) ⟨some (3 / 2), none⟩) := by
  decide +kernel
theorem test_decode_preSample : decodeRequest ⟨.command, [0x3, 0, 40, 2, 1]⟩ = .ok (.preSample .L 40 (1 / 2)) := by
  decide +kernel
theorem test_decode_preTick : decodeRequest ⟨.command, [0x4, 1, 0x8C, 0x01, 6, 1]⟩ = .ok (.preTick .R 140 (3 / 2)) := by
  decide +kernel
theorem test_decode_pidUpdate : decodeRequest ⟨.command, [0x5, 0, 1, 3, 2, 0]⟩ = .ok (.pidUpdate .L (-1 / 4) 1) := by
  decide +kernel
theorem test_decode_pidReset : decodeRequest ⟨.command, [0x6, 1]⟩ = .ok (.pidReset .R) := by decide +kernel
theorem test_decode_pidSetGains :
    decodeRequest ⟨.command, [0x7, 0, 4, 0, 2, 1, 0, 0]⟩ = .ok (.pidSetGains .L 2 (1 / 2) 0) := by decide +kernel
theorem test_decode_pidSetSetpoint : decodeRequest ⟨.command, [0x8, 0, 80, 0]⟩ = .ok (.pidSetSetpoint .L 40) := by
  decide +kernel
theorem test_decode_pidSetBounds :
    decodeRequest ⟨.command, [0x9, 0, 19, 0, 20, 0]⟩ = .ok (.pidSetBounds .L (-10) 10) := by decide +kernel
theorem test_decode_atStart : decodeRequest ⟨.command, [0xA, 1, 100, 0, 0, 0]⟩ = .ok (.atStart .R 50 0) := by
  decide +kernel
theorem test_decode_atSample :
    decodeRequest ⟨.command, [0xB, 0xB4, 0x01, 0, 6, 0]⟩ = .ok (.atSample 90 3) := by decide +kernel
theorem test_decode_atCancel : decodeRequest ⟨.command, [0xC]⟩ = .ok .atCancel := by decide +kernel
theorem test_decode_cmMap : decodeRequest ⟨.command, 0xD :: List.replicate 16 0⟩ = .ok (.cmMap (Vector.replicate 16 none)) := by
  decide +kernel
theorem test_decode_preRpm : decodeRequest ⟨.command, [0xE, 0, 2, 2]⟩ = .ok (.preRpm .L (1 / 3)) := by decide +kernel
/-- The reserved code by itself and with bytes behind it (R127). -/
theorem test_decode_reservedF :
    decodeRequest ⟨.command, [0xF]⟩ = .ok .reservedF ∧ decodeRequest ⟨.command, [0xF, 1, 0xFF]⟩ = .ok .reservedF := by
  decide +kernel
theorem test_decode_fdFeedBurst : decodeRequest ⟨.transport, [0x20, 0x40]⟩ = .ok (.fdFeedBurst [0x20, 0x40]) := by
  decide +kernel
theorem test_decode_loopPoll :
    decodeRequest ⟨.pseudo, [1, 2, 0x20, 0x40, 2, 99, 0, 0]⟩ = .ok (.loopPoll [0x20, 0x40] (1 / 100) noOvr) := by
  decide +kernel
theorem test_decode_cmRange : decodeRequest ⟨.pseudo, 2 :: List.replicate 16 0⟩ = .ok (.cmRange (Vector.replicate 16 none)) := by
  decide +kernel

/-- Bytes that stand for no operation are refused, each by its name. -/
theorem test_decode_refusals :
    decodeRequest ⟨.command, []⟩ = .error .empty ∧ decodeRequest ⟨.command, [0x1]⟩ = .error .truncated ∧
    decodeRequest ⟨.command, [0x10]⟩ = .error .badOpByte ∧ decodeRequest ⟨.pseudo, [3]⟩ = .error .badPseudo ∧
    decodeRequest ⟨.command, [0x6, 2]⟩ = .error .badMotor ∧
    decodeRequest ⟨.command, [0xD, 2]⟩ = .error .badFlag ∧ decodeRequest ⟨.command, [0x0, 3]⟩ = .error .badVariant ∧
    decodeRequest ⟨.command, [0xB, 0, 0, 1, 0]⟩ = .error .negativeTime ∧
    decodeRequest ⟨.command, [0xC, 1]⟩ = .error .trailingBytes := by decide +kernel

/-- Table words: the sixteen operation codes, and the two frames by their fixed bytes. -/
theorem test_table_words :
    decodeTableWord 8 0x1 = some (.fdFeed 0) ∧ decodeTableWord 8 0x6 = some (.pidReset .L) ∧
    decodeTableWord 8 0xC = some .atCancel ∧ decodeTableWord 8 0xF = some .reservedF ∧
    decodeTableWord 256 0x4020 = some (.iframe (Vector.replicate 14 0) 0) ∧
    decodeTableWord 200 0x0F = some (.pframe (Vector.replicate 16 0) 0) := by decide +kernel

/-! ### One step: RESET, the reserved code -/

/-- R420 from the middle of a run: the warmup starts again, the brake is engaged, the tuner is dropped (R422). -/
theorem test_reset_from_tuning :
    (after (.reset (some .interval) .default) { tuning with arm := .armed, brake := false }).arm = .warmup ∧
    (after (.reset (some .interval) .default) { tuning with arm := .armed, brake := false }).brake = true ∧
    (after (.reset (some .interval) .default) { tuning with arm := .armed, brake := false }).tuneOwner = none := by
  decide +kernel

/-- V2 of R431 at its boundary: 31 bytes are refused for the interval variant. -/
theorem test_reset_refused :
    ran (.reset (some .interval) { Params.default with bufCap := 31 }) armed = some armed := by decide +kernel

theorem test_reservedF_nothing : ran .reservedF armed = some armed := by decide +kernel

/-! ### One step: FrameDecoder -/

/-- R146's worked example. -/
theorem test_fdFeed_completes_vi1 :
    (after (.fdFeed 0xF3) { State.reset with buf := vi1Head }).buf = [] ∧
    (after (.fdFeed 0xF3) { State.reset with buf := vi1Head }).outputs = [.frame (sticks [])] := by decide +kernel

/-- VS3: the header's second byte is wrong. -/
theorem test_fdFeed_drops : (after (.fdFeed 0x41) { State.reset with buf := [0x20] }).buf = [] := by decide +kernel

/-- VS6 up to the rejection: the scan finds the true header two bytes on. -/
theorem test_fdFeedBurst_rejects :
    (after (.fdFeedBurst ([0x20, 0x40] ++ vi1Head.take 30)) State.reset).outputs = [.fdReject .cks] ∧
    (after (.fdFeedBurst ([0x20, 0x40] ++ vi1Head.take 30)) State.reset).buf = vi1Head.take 30 ∧
    (after (.fdFeedBurst ([0x20, 0x40] ++ vi1Head.take 30)) State.reset).errors = [.frameError .cks] := by
  decide +kernel

/-- VI2: channels 13 and 14 show the full range. -/
theorem test_iframe_vi2 :
    (after (.iframe vi2Channels 0xF508) State.reset).lastGood =
      some (Vector.ofFn fun i => if h : i.val < 14 then some vi2Channels[i.val] else none) := by decide +kernel

/-- VI4's checksum `0xE3BB` (R105's lowest). -/
theorem test_iframe_checksum : iframeChecksum (Vector.replicate 14 65535) = 0xE3BB := by decide +kernel

/-- VP2 with byte 23 set: the byte is ignored (R108). -/
theorem test_pframe_vp2 :
    (after (.pframe vp2Channels 0xFF) parityReset).outputs =
      [.frame (Vector.ofFn fun i => some (BitVec.ofNat 16 (101 * (i.val + 1))))] := by decide +kernel

/-- VQ4: a run of `11` bytes between the sentinels is a frame (R155). -/
theorem test_pframe_weakness :
    (after (.fdFeedBurst ([0x0F] ++ List.replicate 23 0x11 ++ [0x00])) parityReset).lastGood =
      some (Vector.ofFn fun i => some ((#v[273, 546, 1092, 136] : Vector U16 4)[i.val % 4])) := by decide +kernel

/-! ### One step: ChannelMapper -/

/-- VC3. -/
theorem test_cmMap_vc3 :
    (after (.cmMap (sticks [(2, 1000), (3, 1000), (4, 1600), (6, 1200), (7, 1000)])) State.reset).result =
      some (.intent ⟨100, .reverse, .right, .none, true, .normal⟩) := by decide +kernel

/-- VC7: the magnitude of the throttle, just outside the deadzone. -/
theorem test_cmMap_vc7 :
    (after (.cmMap (sticks [(3, 1449)])) State.reset).result = some (.intent ⟨51 / 5, .idle, .none, .none, false, .safe⟩) := by
  decide +kernel

/-- VC9, with an absent arm channel besides (R181). -/
theorem test_cmRange_vc9 :
    (after (.cmRange ((sticks [(6, 999)]).set 4 none)) State.reset).result = some (.roles [.arm, .brake]) := by
  decide +kernel

/-! ### One step: MotionStateMachine and the loop -/

/-- VM1. -/
theorem test_msmCycle_vm1 :
    (after (.msmCycle (sticks [(2, 2000)]) 0 ⟨some (3 / 2), some (-1)⟩) idle).outputs =
      [.evIntent ⟨0, .forward, .none, .none, false, .safe⟩, .setDirection .L true, .setDuty .L 0, .setBrake .L true,
       .setDirection .R true, .setDuty .R 0, .setBrake .R true, .evNotArmed 0] := by decide +kernel

/-- Cycle c7 of program 2: the pivot turns the left motor round. -/
theorem test_msmCycle_c7 :
    (after (.msmCycle (sticks [(2, 2000), (3, 1750), (4, 1000), (5, 2000), (6, 2000)]) (3 / 25) noOvr) armed).cmd =
      ⟨⟨1 / 2, .reverse, false⟩, ⟨1 / 2, .forward, false⟩⟩ := by decide +kernel

/-- Line 2 of program 1, its end: the frame and its warmup cycle in one poll. -/
theorem test_loopPoll_frame_then_cycle :
    (after (.loopPoll [0xF3, 0x20, 0x40] 0 noOvr) { State.reset with buf := vi1Head }).outputs = [.frame (sticks [])] ∧
    (after (.loopPoll [0xF3, 0x20, 0x40] 0 noOvr) { State.reset with buf := vi1Head }).warmCnt = 1 ∧
    (after (.loopPoll [0xF3, 0x20, 0x40] 0 noOvr) { State.reset with buf := vi1Head }).buf = [0x20, 0x40] := by
  decide +kernel

/-- Line 5 of program 1. -/
theorem test_loopPoll_empty : ran (.loopPoll [] (1 / 25) noOvr) armed = some armed := by decide +kernel

/-! ### One step: PulseRateEstimator -/

theorem test_preSample_rate :
    (after (.preSample .L 40 (1 / 2)) State.reset).pre.l.rate = 80 ∧
    (after (.preSample .L 40 (1 / 2)) State.reset).result = some (.number 80) := by decide +kernel

/-- A negative elapsed time is treated like zero (R261). -/
theorem test_preSample_negative :
    (after (.preSample .L 7 (-1)) State.reset).errors = [.sampleTimingError] ∧
    (after (.preSample .L 7 (-1)) State.reset).pre = State.reset.pre := by decide +kernel

theorem test_preTick_rate :
    (after (.preTick .R 140 (3 / 2)) { State.reset with pre := both ⟨0, some 100, some 1⟩ }).pre.r =
      ⟨80, some 140, some (3 / 2)⟩ := by decide +kernel

/-- The count went back: rate kept, new reference (2.5). -/
theorem test_preTick_backwards :
    (after (.preTick .R 130 2) { State.reset with pre := both ⟨80, some 140, some (3 / 2)⟩ }).pre.r =
      ⟨80, some 130, some 2⟩ := by decide +kernel

theorem test_preRpm : (after (.preRpm .L 80) State.reset).result = some (.number 240) := by decide +kernel

/-! ### One step: PIDController -/

/-- Row 5 of R299: saturated, so the integral is frozen. -/
theorem test_pidUpdate_row5 :
    (after (.pidUpdate .L 12 2) { State.reset with
      pid := both ⟨2, 1, 1 / 2, 10, 0, 100, 9 / 2, 1, some (3 / 2), 0, 0⟩ }).pid.l =
      ⟨2, 1, 1 / 2, 10, 0, 100, 9 / 2, -2, some 2, -7 / 2, 0⟩ := by decide +kernel

/-- Refused on the tuner's motor (R298). -/
theorem test_pidUpdate_refused : ran (.pidUpdate .L 0 1) tuning = some (tuning.ret (.number 0)) := by decide +kernel

theorem test_pidReset : (after (.pidReset .L) { State.reset with
      pid := both ⟨2, 1, 1 / 2, 10, 0, 100, 9 / 2, 1, some 1, 3, 4⟩ }).pid =
      ⟨⟨2, 1, 1 / 2, 10, 0, 100, 0, 0, none, 3, 4⟩, ⟨2, 1, 1 / 2, 10, 0, 100, 9 / 2, 1, some 1, 3, 4⟩⟩ := by
  decide +kernel

/-- End of series C. -/
theorem test_pidSetGains : (after (.pidSetGains .L 3 1 0) { State.reset with
      pid := both ⟨1, 0, 1 / 2, 0, -10, 10, 5, 1, some 1, 3, 4⟩ }).pid.l =
      ⟨3, 1, 0, 0, -10, 10, 0, 0, none, 3, 4⟩ := by decide +kernel

theorem test_pidSetSetpoint : (after (.pidSetSetpoint .R 7) { State.reset with
      pid := both ⟨1, 0, 0, 0, 0, 1, 5, 1, some 1, 3, 4⟩ }).pid.r = ⟨1, 0, 0, 7, 0, 1, 5, 1, some 1, 3, 4⟩ := by
  decide +kernel

theorem test_pidSetBounds : (after (.pidSetBounds .L (1 / 4) (1 / 4)) State.reset).pid.l.outMin = 1 / 4 ∧
    (after (.pidSetBounds .L (1 / 4) (1 / 4)) State.reset).pid.l.outMax = 1 / 4 := by decide +kernel

theorem test_pidSetBounds_refused : ran (.pidSetBounds .L 5 1) State.reset = some State.reset := by decide +kernel

/-! ### One step: AutoTuner -/

/-- Line 3 of program 3 (gains 2, 1/2, 0, setpoint 40 before it). -/
theorem test_atStart :
    (after (.atStart .L 100 0) { State.reset with
      pid := both ⟨2, 1 / 2, 0, 40, 0, 1, 3, 1, some 0, 0, 0⟩ }).pid.l = ⟨1, 0, 0, 100, 0, 1, 0, 0, none, 0, 0⟩ ∧
    (after (.atStart .L 100 0) { State.reset with
      pid := both ⟨2, 1 / 2, 0, 40, 0, 1, 3, 1, some 0, 0, 0⟩ }).tuner.saved = ⟨2, 1 / 2, 0, 40⟩ := by decide +kernel

/-- Row 1 of program 5: the three calls go out, `set_brake` too although the last value sent was already `false`. -/
theorem test_atStart_program5 :
    (armed.act.get .L).brake = some false ∧
    (after (.atStart .L 10 1) armed).outputs = [.setDirection .L true, .setDuty .L 0, .setBrake .L false] := by
  decide +kernel

/-- T7, the sixth sample. -/
theorem test_atSample_t7 :
    (after (.atSample 1 (11 / 10)) nearlyTuned).outputs =
      [.setDuty .L 0, .setDuty .L 0, .setBrake .L true, .evOscDetected .L 1 (2 / 5),
       .evTuneResult .L (.success 1 (2 / 5) (3 / 5) 3 (3 / 100))] := by decide +kernel

/-- The budget runs out (2.7). -/
theorem test_atSample_budget :
    (after (.atSample 5 100) tuning).errors = [.tuningFailure] ∧ (after (.atSample 5 100) tuning).pid.l.sp = 0 ∧
    (after (.atSample 5 100) tuning).tuner.k = 0 := by decide +kernel

theorem test_atCancel : (after .atCancel tuning).tuner.cancel = true := by decide +kernel

theorem test_atCancel_idle : ran .atCancel armed = some armed := by decide +kernel

/-! ### A step runs what stands in the inbox -/

theorem test_step_table_word :
    stepped (State.reset.withFetchWord 8 0xA) = ran (.atStart .L 0 0) State.reset := by decide +kernel

/-! ### Witnesses: for every statement with hypotheses, a state and operands that meet them -/

/-- A one-request inbox. -/
def posted (q : Request) (s : State) : State := { s with inbox := [q] }

/-- `tuning` is safe. -/
theorem safe_tuning : SafeState tuning := by
  refine ⟨by decide +kernel, by decide +kernel, ⟨⟨by decide, by decide⟩, (fun _ h => by cases h)⟩, ?_, ?_, ?_, ?_⟩
  · exact ⟨by decide, by decide, by decide⟩
  · intro m
    cases m <;> exact ⟨⟨by decide +kernel, by decide +kernel⟩, by decide +kernel, by decide⟩
  · exact ⟨by decide, by decide, by decide, (fun _ _ h => by cases h), (fun _ _ h => by cases h)⟩
  · intro m
    cases m <;> decide

/-- `nearlyTuned` is safe. -/
theorem safe_nearlyTuned : SafeState nearlyTuned := by
  refine ⟨by decide +kernel, by decide +kernel, ⟨⟨by decide, by decide⟩, (fun _ h => by cases h)⟩, ?_, ?_, ?_, ?_⟩
  · exact ⟨by decide, by decide, by decide⟩
  · intro m
    cases m <;> exact ⟨⟨by decide +kernel, by decide +kernel⟩, by decide +kernel, by decide⟩
  · refine ⟨by decide, by decide, by decide, fun a b h1 h2 => ?_, fun a b h1 h2 => ?_⟩ <;> cases h1 <;> cases h2 <;>
      decide +kernel
  · intro m
    cases m <;> decide

theorem witness_DecodeOfEncodeIsIdentity :
    (Instr.msmCycle (sticks []) 0 noOvr).wellFormed = true ∧ (Instr.reset none zeroPar).wellFormed = true := by
  decide +kernel

theorem witness_DecodedOperationsAreWellFormed :
    decodeRequest ⟨.command, [0xB, 0, 0, 0, 0]⟩ = .ok (.atSample 0 0) := by decide +kernel

theorem witness_StepRunsTheDecodedOperation :
    ((posted ⟨.command, [0xC]⟩ State.reset).inbox = ⟨.command, [0xC]⟩ :: [] ∧
      decodeRequest ⟨.command, [0xC]⟩ = .ok .atCancel ∧ Instr.atCancel.wellFormed = true) ∧
    State.reset.inbox = [] ∧
    ((posted ⟨.command, []⟩ State.reset).inbox = ⟨.command, []⟩ :: [] ∧
      decodeRequest ⟨.command, []⟩ = .error .empty) := by decide +kernel

/-- Without a byte behind the code, and with bytes that are not zero. -/
theorem witness_ReservedCodeHasNoEffect :
    (posted ⟨.command, [0x0F]⟩ armed).inbox = ⟨.command, 0x0F :: []⟩ :: [] ∧
    (posted ⟨.command, [0x0F, 1, 0xFF]⟩ armed).inbox = ⟨.command, 0x0F :: [1, 0xFF]⟩ :: [] ∧
    Instr.atCancel ≠ .reservedF := by decide

theorem witness_EveryStepKeepsTheInvariant :
    SafeState (posted ⟨.command, [0xC]⟩ tuning) ∧
    ∃ s', step (posted ⟨.command, [0xC]⟩ tuning) = .next s' := ⟨safe_tuning, _, rfl⟩

theorem witness_EveryDutySentIsAFraction :
    ∃ s', stepped (State.reset.withFetchWord 8 0xA) = some s' ∧ Output.setDuty .L 0 ∈ s'.outputs :=
  ⟨(stepped (State.reset.withFetchWord 8 0xA)).getD State.reset, by decide +kernel, by decide +kernel⟩

theorem witness_OnlyResetChangesTheConfiguration :
    (∀ v p, Instr.atCancel ≠ .reset v p) ∧ ∃ s', exec .atCancel tuning = .next s' := ⟨by simp, _, rfl⟩

theorem witness_OnlyResetEntersWarmup :
    (∀ v p, Instr.msmCycle (sticks []) 0 noOvr ≠ .reset v p) ∧ armed.arm ≠ .warmup ∧
    ∃ s', exec (.msmCycle (sticks []) 0 noOvr) armed = .next s' := ⟨by simp, by decide, _, rfl⟩

/-- One for each way the ownership can move. -/
theorem witness_OnlyTheTunerMovesOwnership :
    (after (.reset (some .interval) .default) tuning).tuneOwner ≠ tuning.tuneOwner ∧
    (after (.atStart .R 10 0) State.reset).tuneOwner ≠ State.reset.tuneOwner ∧
    (after (.atSample 5 100) tuning).tuneOwner ≠ tuning.tuneOwner := by decide +kernel

theorem witness_OwnedMotorIsUntouched :
    tuning.tuneOwner = some .L ∧ (∀ v p, Instr.pidReset .L ≠ .reset v p) ∧
    (∀ n sp t, Instr.pidReset .L ≠ .atStart n sp t) ∧ (∀ r t, Instr.pidReset .L ≠ .atSample r t) ∧
    ∃ s', exec (.pidReset .L) tuning = .next s' := ⟨rfl, by simp, by simp, by simp, _, rfl⟩

/-- A valid configuration of each variant. -/
theorem witness_ResetStateIsSafe :
    validCfg ⟨.interval, .default⟩ = true ∧ validCfg ⟨.parity, .default⟩ = true := by decide +kernel

/-- The cap at its lowest valid value, and one below it. -/
theorem witness_ResetSetsEveryRegister :
    validCfg ⟨.interval, { Params.default with bufCap := 31 }⟩ = false ∧
    validCfg ⟨.interval, { Params.default with bufCap := 32 }⟩ = true ∧
    validCfg ⟨.parity, { Params.default with bufCap := 25 }⟩ = true := by decide +kernel

theorem witness_ResetRefusesAnInvalidConfiguration :
    (∀ w, (none : Option Variant) = some w → validCfg ⟨w, Params.default⟩ = false) ∧
    (∀ w, some Variant.interval = some w → validCfg ⟨w, { Params.default with bufCap := 31 }⟩ = false) :=
  ⟨(fun _ h => by cases h), (fun _ h => by cases h; decide +kernel)⟩

theorem witness_CompletedValidWindowIsAFrame :
    (BufNormal .interval vi1Head ∧ (vi1Head ++ [0xF3]).length = frameLen .interval ∧
      validWindow .interval (vi1Head ++ [0xF3]) = true) ∧
    (BufNormal .parity vp2.dropLast ∧ (vp2.dropLast ++ [0x00]).length = frameLen .parity ∧
      validWindow .parity (vp2.dropLast ++ [0x00]) = true) ∧
    (frameLen State.reset.cfg.variant : Int) ≤ State.reset.cfg.par.bufCap :=
  ⟨⟨⟨by decide, by decide⟩, by decide, by decide +kernel⟩, ⟨⟨by decide, by decide⟩, by decide, by decide +kernel⟩, by decide⟩

theorem witness_CompletedInvalidWindowIsRejected :
    (BufNormal .interval vi1Head ∧ (vi1Head ++ [0xF2]).length = frameLen .interval ∧
      validWindow .interval (vi1Head ++ [0xF2]) = false) ∧
    (BufNormal .parity vp2.dropLast ∧ (vp2.dropLast ++ [0x04]).length = frameLen .parity ∧
      validWindow .parity (vp2.dropLast ++ [0x04]) = false) ∧
    (frameLen parityReset.cfg.variant : Int) ≤ parityReset.cfg.par.bufCap :=
  ⟨⟨⟨by decide, by decide⟩, by decide, by decide +kernel⟩, ⟨⟨by decide, by decide⟩, by decide, by decide +kernel⟩, by decide⟩

/-- From the empty buffer to one byte short of a frame. -/
theorem witness_IncompleteWindowWaits :
    (BufNormal .interval [] ∧ (([] : List Byte) ++ [0x20]).length < frameLen .interval) ∧
    (BufNormal .interval vi1Head.dropLast ∧ (vi1Head.dropLast ++ [0x51]).length < frameLen .interval) ∧
    (frameLen State.reset.cfg.variant : Int) ≤ State.reset.cfg.par.bufCap :=
  ⟨⟨⟨by decide, by decide⟩, by decide⟩, ⟨⟨by decide, by decide⟩, by decide⟩, by decide⟩

/-- After reset, and one byte short of a frame of either variant. -/
theorem witness_OneByteGivesAtMostOneOutput :
    BufNormal .interval vi1Head ∧ BufNormal .parity vp2.dropLast ∧ BufNormal State.reset.cfg.variant State.reset.buf ∧
    (frameLen State.reset.cfg.variant : Int) ≤ State.reset.cfg.par.bufCap :=
  ⟨⟨by decide, by decide⟩, ⟨by decide, by decide⟩, ⟨by decide, by decide⟩, by decide⟩

theorem witness_FeedingTouchesOnlyTheDecoder :
    (∃ b, Instr.fdFeed 0x20 = .fdFeed b) ∧ (∃ bs, Instr.fdFeedBurst [] = .fdFeedBurst bs) ∧
    (∃ ch ck, Instr.iframe vi2Channels 0xF508 = .iframe ch ck) ∧ (∃ ch b, Instr.pframe vp2Channels 0 = .pframe ch b) :=
  ⟨⟨_, rfl⟩, ⟨_, rfl⟩, ⟨_, _, rfl⟩, ⟨_, _, rfl⟩⟩

theorem witness_BurstIsTheSequenceOfItsBytes : ∃ s1, exec (.fdFeed 0x20) State.reset = .next s1 := ⟨_, rfl⟩

theorem witness_FeedingIsTheWholeStreamReading :
    State.reset.buf = [] ∧ (frameLen State.reset.cfg.variant : Int) ≤ State.reset.cfg.par.bufCap ∧
    parityReset.buf = [] ∧ (frameLen parityReset.cfg.variant : Int) ≤ parityReset.cfg.par.bufCap := by decide

/-- VI1. -/
theorem witness_EveryValidPacketIsDecoded :
    State.reset.cfg.variant = .interval ∧ 32 ≤ State.reset.cfg.par.bufCap ∧ State.reset.buf = [] ∧
    (0xF351 : U16).toNat = 65535 - (0x20 + 0x40 +
      ((Vector.replicate 14 (1500 : U16)).toList.map fun c => c.toNat % 256 + c.toNat / 256).sum) := by decide +kernel

/-- A checksum one off, and VP2 with another end byte (R109). -/
theorem witness_EveryWrongChecksumIsRejected :
    State.reset.cfg.variant = .interval ∧ 32 ≤ State.reset.cfg.par.bufCap ∧ State.reset.buf = [] ∧
    (0xF350 : U16).toNat ≠ 65535 - (0x20 + 0x40 +
      ((Vector.replicate 14 (1500 : U16)).toList.map fun c => c.toNat % 256 + c.toNat / 256).sum) ∧
    parityReset.cfg.variant = .parity ∧ 25 ≤ parityReset.cfg.par.bufCap ∧ parityReset.buf = [] ∧
    (vp2.dropLast.drop 1).length = 23 ∧ (0x04 : Byte) ≠ 0x00 := by decide +kernel

/-- VP2 with end byte `0x04`: the strobe, the error, no frame (R109, R149). -/
theorem test_parity_end_byte_rejected :
    (after (.fdFeedBurst (vp2.dropLast ++ [0x04])) parityReset).outputs = [.fdReject .endByte] ∧
    (after (.fdFeedBurst (vp2.dropLast ++ [0x04])) parityReset).errors = [.frameError .endByte] ∧
    (after (.fdFeedBurst (vp2.dropLast ++ [0x04])) parityReset).lastGood = none := by decide +kernel

theorem witness_EveryParityFrameIsDecoded :
    parityReset.cfg.variant = .parity ∧ 25 ≤ parityReset.cfg.par.bufCap ∧ parityReset.buf = [] := by decide

/-- The first and the last channel. -/
theorem witness_ParityChannelFromItsBytes :
    vp2.length = 25 ∧ 1 ≤ 1 ∧ 1 ≤ 16 ∧ 1 ≤ 16 ∧ 16 ≤ 16 ∧ parityChan vp2 1 = 101 ∧ parityChan vp2 16 = 1616 := by
  decide +kernel

/-- Both ends of the range: thirty zero bytes, and a stored checksum of 0 that lies outside the range. -/
theorem witness_ChecksumLiesInItsRange :
    (List.replicate 30 (0x00 : Byte)).length = 30 ∧
    storedChecksum (0x20 :: 0x40 :: List.replicate 30 (0x00 : Byte)) < 0xE3BB ∧
    0xFF9F < storedChecksum (0x20 :: 0x40 :: List.replicate 30 (0xFF : Byte)) := by decide +kernel

/-- In band at both ends, out of band one beyond them, and a point between whose value R182 gives: 1750 is 1/2. -/
theorem witness_NormalizeEndsAndNeutral :
    ((999 : Int) < 1000 ∨ 2000 < (999 : Int)) ∧ ((2001 : Int) < 1000 ∨ 2000 < (2001 : Int)) ∧
    0 < MapperParams.default.fullScale ∧ MapperParams.default.saneLo ≤ 1000 ∧ 2000 ≤ MapperParams.default.saneHi ∧
    normalizeChannel .default 1750 = 1 / 2 := by decide +kernel

/-- The two comparisons at their edge: 1551 and 1449 cross the deadzone, 1550 and 1450 do not (2.3). -/
theorem witness_TriIsTheNormalizedComparison :
    (0 < MapperParams.default.fullScale ∧ 0 ≤ MapperParams.default.deadzone ∧
      MapperParams.default.deadzone < MapperParams.default.fullScale) ∧
    tri .default 1551 = .positive ∧ tri .default 1550 = .neutral ∧ tri .default 1450 = .neutral ∧
    tri .default 1449 = .negative := by decide

/-- 1020 lies within the tolerance, 1021 does not (VC12, VC13). -/
theorem witness_ModeIsTheNearestMatch :
    raw (Vector.replicate 16 none) MapperParams.default.chMode = none ∧
    raw (sticks [(7, 1020)]) MapperParams.default.chMode = some 1020 ∧
    raw (sticks [(7, 1021)]) MapperParams.default.chMode = some 1021 := by decide +kernel

/-- The first warmup frame, and the last. -/
theorem witness_WarmupOnlyCountsFrames :
    State.reset.arm = .warmup ∧ (State.reset.warmCnt : Int) + 1 < State.reset.cfg.par.motion.warmupCount ∧
    ({ State.reset with warmCnt := 1 } : State).arm = .warmup ∧
    (({ State.reset with warmCnt := 1 } : State).warmCnt : Int) + 1 ≥ State.reset.cfg.par.motion.warmupCount := by decide

/-- 1450 and 1550 are low, 1449 and 1551 are not, and an out-of-band or absent throttle is not (R215). -/
theorem witness_LowSamplesAreCounted :
    idle.arm ≠ .warmup ∧ 1 ≤ idle.cfg.par.motion.armCount ∧
    raw (sticks [(3, 1450)]) 3 = some 1450 ∧ |(1450 : Int) - 1500| ≤ 50 ∧ |(1550 : Int) - 1500| ≤ 50 ∧
    ¬ |(1449 : Int) - 1500| ≤ 50 ∧ ¬ |(1551 : Int) - 1500| ≤ 50 ∧ raw (Vector.replicate 16 none) 3 = none := by
  decide +kernel

/-- At the thresholds: with the switch at 1551 the frame that brings `low_cnt` to `ARM_COUNT` = 3 arms and the one before
does not; with the switch at 1550 neither arms, and an armed machine unarms (R216, R217, R218). -/
theorem witness_ArmingAndUnarming :
    idle.arm ≠ .warmup ∧ armed.arm ≠ .warmup ∧ idle.cfg.par.motion.armCount = 3 ∧
    (after (.msmCycle (sticks [(5, 1551)]) 0 noOvr) { idle with lowCnt := 2 }).arm = .armed ∧
    (after (.msmCycle (sticks [(5, 1551)]) 0 noOvr) { idle with lowCnt := 1 }).arm = .idleUnarmed ∧
    (after (.msmCycle (sticks [(5, 1550)]) 0 noOvr) { idle with lowCnt := 2 }).arm = .idleUnarmed ∧
    (after (.msmCycle (sticks [(5, 1551)]) 0 noOvr) armed).arm = .armed ∧
    (after (.msmCycle (sticks [(5, 1550)]) 0 noOvr) armed).arm = .idleUnarmed := by decide +kernel

/-- Each clause at its thresholds: 1449 engages, 1450 and 1550 hold, 1551 releases, 999 and an absent channel hold. -/
theorem witness_BrakeHysteresis :
    armed.arm ≠ .warmup ∧ armed.cfg.par.motion.brakeLo ≤ armed.cfg.par.motion.brakeHi ∧
    raw (sticks [(6, 1449)]) 6 = some 1449 ∧ brakeNext armed.cfg (sticks [(6, 1449)]) false = true ∧
    brakeNext armed.cfg (sticks [(6, 1450)]) false = false ∧ brakeNext armed.cfg (sticks [(6, 1550)]) true = true ∧
    brakeNext armed.cfg (sticks [(6, 1551)]) true = false ∧ brakeNext armed.cfg (sticks [(6, 999)]) false = false ∧
    brakeNext armed.cfg (Vector.replicate 16 none) true = true := by decide +kernel

theorem witness_MotorCommandsFollowTheRules :
    armed.arm ≠ .warmup ∧ ({ tuning with arm := .armed } : State).arm ≠ .warmup ∧ tuning.tuneOwner = some .L ∧
    tuning.tuneOwner ≠ some .R := by decide

theorem witness_MotionCycleOutputsInOrder : armed.arm ≠ .warmup ∧ idle.arm ≠ .warmup := by decide

theorem witness_MotionCycleFrame : armed.arm ≠ .warmup ∧ idle.arm ≠ .warmup := by decide

/-- A byte that completes a frame, and one that does not. -/
theorem witness_PollRunsACycleForEachFrame :
    (∃ s1, exec (.fdFeed 0xF3) { State.reset with buf := vi1Head } = .next s1 ∧
      s1.outputs = State.reset.outputs ++ .frame (sticks []) :: []) ∧
    (∃ s1, exec (.fdFeed 0x20) State.reset = .next s1 ∧ s1.outputs = State.reset.outputs ++ [] ∧
      ∀ cs, Output.frame cs ∉ ([] : List Output)) :=
  ⟨⟨_, rfl, by decide +kernel⟩, ⟨_, rfl, by decide +kernel, by simp⟩⟩

theorem witness_SampleGivesTheRate : (0 : Q) ≤ 0 ∧ (0 : Q) < 1 / 1000 := by decide +kernel

/-- The first reading; a count that went back; a time that did not advance; an unchanged count at a later time. -/
theorem witness_TickGivesTheRateOfTheDifferences :
    (State.reset.pre.get .L).lastCount = none ∧
    (({ State.reset with pre := both ⟨80, some 140, some (3 / 2)⟩ } : State).pre.get .L).lastCount = some 140 ∧
    (({ State.reset with pre := both ⟨80, some 140, some (3 / 2)⟩ } : State).pre.get .L).lastT = some (3 / 2) ∧
    (139 < 140 ∨ (2 : Q) ≤ 3 / 2) ∧ (140 < 140 ∨ (3 / 2 : Q) ≤ 3 / 2) ∧ (140 ≤ 140 ∧ (3 / 2 : Q) < 2) := by
  decide +kernel

theorem witness_PidUpdateWithATimeStep :
    State.reset.tuneOwner ≠ some .L ∧
    (({ State.reset with pid := both ⟨2, 1, 1 / 2, 10, 0, 100, 0, 6, some 0, 12, 12⟩ } : State).pid.get .L).tPrev = some 0 ∧
    (0 : Q) < 1 := by decide +kernel

/-- The first update, and one at the previous time. -/
theorem witness_PidUpdateWithoutATimeStep :
    State.reset.tuneOwner ≠ some .L ∧ (∀ tp, (State.reset.pid.get .L).tPrev = some tp → (0 : Q) ≤ tp) ∧
    (∀ tp, some (3 / 2 : Q) = some tp → (3 / 2 : Q) ≤ tp) :=
  ⟨by decide, (fun _ h => by cases h), (fun _ h => by cases h; exact le_rfl)⟩

theorem witness_ProportionalOnlyGivesTheError :
    State.reset.tuneOwner ≠ some .L ∧ (State.reset.pid.get .L).kp = 1 ∧ (State.reset.pid.get .L).ki = 0 ∧
    (State.reset.pid.get .L).kd = 0 ∧ State.reset.cfg.par.numRnd = .exact := by decide +kernel

theorem witness_HostPidOperationsAreRefusedOnTheOwnedMotor : tuning.tuneOwner = some .L := rfl

/-- Bounds that meet, and bounds out of order. -/
theorem witness_PidRegisterWrites :
    tuning.tuneOwner ≠ some .R ∧ (1 / 4 : Q) ≤ 1 / 4 ∧ (1 : Q) < 5 := by decide +kernel

theorem witness_StartBeginsTheFirstTrial : State.reset.tuner.phase = .idle := rfl

theorem witness_TunerRefusalsAndCancel : tuning.tuner.phase = .running ∧ State.reset.tuner.phase = .idle := by decide

theorem witness_CancelledSampleAborts :
    ({ tuning with tuner := { tuning.tuner with cancel := true } } : State).tuner.phase = .running ∧
    ({ tuning with tuner := { tuning.tuner with cancel := true } } : State).tuner.cancel = true := by decide

/-- A zero error; a new sign later than, and exactly at, the last crossing; an old sign; no crossing yet. -/
theorem witness_CrossingRule :
    ((-1 : Q) ≠ 0 ∧ Sgn.neg = (if (0 : Q) < -1 then Sgn.pos else Sgn.neg) ∧ Sgn.neg ≠ nearlyTuned.tuner.lastSign ∧
      (∀ c, nearlyTuned.tuner.c1 = some c → c < (11 / 10 : Q))) ∧
    (∃ c, nearlyTuned.tuner.c1 = some c ∧ (9 / 10 : Q) ≤ c) ∧
    ((1 : Q) ≠ 0 ∧ Sgn.pos = (if (0 : Q) < 1 then Sgn.pos else Sgn.neg) ∧ Sgn.pos = nearlyTuned.tuner.lastSign) ∧
    (Sgn.pos ≠ tuning.tuner.lastSign ∧ ∀ c, tuning.tuner.c1 = some c → c < (0 : Q)) :=
  ⟨⟨by decide +kernel, by decide +kernel, by decide, (fun _ h => by cases h; decide +kernel)⟩, ⟨_, rfl, le_rfl⟩,
    ⟨by decide +kernel, by decide +kernel, by decide⟩, by decide, (fun _ h => by cases h)⟩

theorem witness_SampleInsideATrial :
    tuning.tuner.phase = .running ∧ tuning.tuner.cancel = false ∧
    ((recordCrossing ((tuning.pid.get .L).sp - 9) 1 tuning.tuner).crossCnt : Int) < tuning.cfg.par.tuner.minCrossings ∧
    (1 : Q) - tuning.tuner.sweepStart < tuning.cfg.par.tuner.sweepBudget ∧
    (1 : Q) - tuning.tuner.trialStart < tuning.cfg.par.tuner.trialDuration := by decide +kernel

/-- At exactly the trial's duration. -/
theorem witness_TrialEndBeginsTheNextTrial :
    tuning.tuner.phase = .running ∧ tuning.tuner.cancel = false ∧
    ((recordCrossing ((tuning.pid.get .L).sp - 9) 6 tuning.tuner).crossCnt : Int) < tuning.cfg.par.tuner.minCrossings ∧
    (6 : Q) - tuning.tuner.sweepStart < tuning.cfg.par.tuner.sweepBudget ∧
    tuning.cfg.par.tuner.trialDuration ≤ (6 : Q) - tuning.tuner.trialStart ∧
    tuning.cfg.par.tuner.kpStart + ((tuning.tuner.k + 1 : Nat) : Q) * tuning.cfg.par.tuner.kpStep ≤
      tuning.cfg.par.tuner.kpEnd := by decide +kernel

/-- T7's sixth sample. -/
theorem witness_LastCrossingTunesTheGains :
    nearlyTuned.tuner.phase = .running ∧ nearlyTuned.tuner.cancel = false ∧
    nearlyTuned.cfg.par.tuner.minCrossings ≤
      ((recordCrossing ((nearlyTuned.pid.get .L).sp - 1) (11 / 10) nearlyTuned.tuner).crossCnt : Int) ∧
    (recordCrossing ((nearlyTuned.pid.get .L).sp - 1) (11 / 10) nearlyTuned.tuner).c1 = some (11 / 10) ∧
    (recordCrossing ((nearlyTuned.pid.get .L).sp - 1) (11 / 10) nearlyTuned.tuner).c3 = some (7 / 10) := by
  decide +kernel

/-- The budget at its last value; and the last trial (`at_k = 19`, gain 96) ending inside the budget. -/
theorem witness_SweepFailureRestoresTheGains :
    (tuning.tuner.phase = .running ∧ tuning.tuner.cancel = false ∧
      ((recordCrossing ((tuning.pid.get .L).sp - 5) 100 tuning.tuner).crossCnt : Int) <
        tuning.cfg.par.tuner.minCrossings ∧
      tuning.cfg.par.tuner.sweepBudget ≤ (100 : Q) - tuning.tuner.sweepStart) ∧
    (((recordCrossing ((tuning.pid.get .L).sp - 5) 6 { tuning.tuner with k := 19 }).crossCnt : Int) <
        tuning.cfg.par.tuner.minCrossings ∧
      (6 : Q) - tuning.tuner.sweepStart < tuning.cfg.par.tuner.sweepBudget ∧
      tuning.cfg.par.tuner.trialDuration ≤ (6 : Q) - tuning.tuner.trialStart ∧
      tuning.cfg.par.tuner.kpEnd <
        tuning.cfg.par.tuner.kpStart + ((19 + 1 : Nat) : Q) * tuning.cfg.par.tuner.kpStep) := by decide +kernel

theorem witness_TunedPeriodIsPositive :
    SafeState nearlyTuned ∧ nearlyTuned.tuner.phase = .running ∧ nearlyTuned.tuner.result = none ∧
    ∃ s', ran (.atSample 1 (11 / 10)) nearlyTuned = some s' ∧
      s'.tuner.result = some (.success 1 (2 / 5) (3 / 5) 3 (3 / 100)) :=
  ⟨safe_nearlyTuned, rfl, rfl, (ran (.atSample 1 (11 / 10)) nearlyTuned).getD State.reset, by decide +kernel,
    by decide +kernel⟩

end

end Sys2Proof.Tests
end

section
/-! SUPPORT. Requests and steps: what the request decoder can answer, what one step does in each case of the inbox,
and the statements about both. -/

namespace Sys2Proof

/-! ### What a decoder can answer -/

/-- Every value the decoder `p` answers, on any bytes, satisfies `P`. -/
def DecodesOnly {α : Type} (p : Dec α) (P : α → Prop) : Prop :=
  ∀ ⦃bs r a⦄, p bs = .ok (a, r) → P a

namespace DecodesOnly

variable {α β : Type} {p : Dec α} {f : α → Dec β} {P : α → Prop} {Q : β → Prop}

protected theorem pure {a : α} (h : P a) : DecodesOnly (decPure a) P := fun _ _ _ hd => by
  cases hd
  exact h

theorem ignoreRest {P : Instr → Prop} {i : Instr} (h : P i) : DecodesOnly (decIgnoreRest i) P := fun _ _ _ hd => by
  cases hd
  exact h

protected theorem fail {e : DecodeError} : DecodesOnly (decFail e) P := fun _ _ _ hd => nomatch hd

/-- A sequence answers only what its continuation answers on the values of its first decoder. -/
theorem bind_of (hp : DecodesOnly p P) (hf : ∀ a, P a → DecodesOnly (f a) Q) : DecodesOnly (decBind p f) Q :=
  fun _ _ _ hd => by
    obtain ⟨a, _, ha, hb⟩ := decBind_eq_ok hd
    exact hf a (hp ha) hb

/-- The same when nothing needs to be known of the first operand. -/
protected theorem bind (hf : ∀ a, DecodesOnly (f a) Q) : DecodesOnly (decBind p f) Q :=
  bind_of (P := fun _ => True) (fun _ _ _ _ => trivial) fun a _ => hf a

/-- Reading a request to its last byte adds no answer. -/
theorem whole {p : Dec Instr} {P : Instr → Prop} (hp : DecodesOnly p P) {bs : List Byte} {i : Instr}
    (h : decWhole p bs = .ok i) : P i := by
  obtain ⟨_, hi⟩ := decWhole_eq_ok h
  exact hp hi

end DecodesOnly

/-- The check of R19, the one fact about an operand that `Instr.wellFormed` asks for. -/
theorem decTime_decodesOnly : DecodesOnly decTime (timeOk · = true) := fun _ _ _ => decTime_timeOk

/-! ### Only well-formed operations are decoded

One line for each operation code of R125 and each pseudo-operation select. `.bind` passes over an operand that
`Instr.wellFormed` does not look at, `.bind_of decTime_decodesOnly` keeps the fact about a `Time`. -/

theorem decOperands_wellFormed : ∀ op, DecodesOnly (decOperands op) (·.wellFormed = true)
  | 0x0 => .bind fun _ => .bind fun _ => .pure rfl
  | 0x1 => .bind fun _ => .pure rfl
  | 0x2 => .bind fun _ => .bind_of decTime_decodesOnly fun _ ht => .bind fun _ => .pure ht
  | 0x3 => .bind fun _ => .bind fun _ => .bind fun _ => .pure rfl
  | 0x4 => .bind fun _ => .bind fun _ => .bind_of decTime_decodesOnly fun _ ht => .pure ht
  | 0x5 => .bind fun _ => .bind fun _ => .bind_of decTime_decodesOnly fun _ ht => .pure ht
  | 0x6 => .bind fun _ => .pure rfl
  | 0x7 => .bind fun _ => .bind fun _ => .bind fun _ => .bind fun _ => .pure rfl
  | 0x8 => .bind fun _ => .bind fun _ => .pure rfl
  | 0x9 => .bind fun _ => .bind fun _ => .bind fun _ => .pure rfl
  | 0xA => .bind fun _ => .bind fun _ => .bind_of decTime_decodesOnly fun _ ht => .pure ht
  | 0xB => .bind fun _ => .bind_of decTime_decodesOnly fun _ ht => .pure ht
  | 0xC => .pure rfl
  | 0xD => .bind fun _ => .pure rfl
  | 0xE => .bind fun _ => .bind fun _ => .pure rfl
  | 0xF => .ignoreRest rfl
  | _ + 0x10 => .fail

theorem decPseudo_wellFormed : ∀ sel, DecodesOnly (decPseudo sel) (·.wellFormed = true)
  | 0 => .bind fun _ => .pure rfl
  | 1 => .bind fun _ => .bind_of decTime_decodesOnly fun _ ht => .bind fun _ => .pure ht
  | 2 => .bind fun _ => .pure rfl
  | _ + 3 => .fail

/-- The three rows the transport delivers have no `Time` operand. -/
theorem decTransport_wellFormed (bs : List Byte) : (decTransport bs).wellFormed = true := by
  unfold decTransport
  split
  · rfl
  · split <;> rfl

/-- Settles O3: one case for each port, and for the bytes a port needs. -/
theorem decodedOperationsAreWellFormed : Obligations.DecodedOperationsAreWellFormed := by
  rintro ⟨port, bytes⟩ i h
  match port, bytes with
  | .command, [] => nomatch h
  | .command, code :: _ => exact (decOperands_wellFormed code.toNat).whole h
  | .pseudo, [] => nomatch h
  | .pseudo, sel :: _ => exact (decPseudo_wellFormed sel.toNat).whole h
  | .transport, bs =>
    cases h
    exact decTransport_wellFormed bs

end Sys2Proof

namespace Sys2Proof.Machine

/-! ### One step, by the inbox -/

section

variable {s : State} {q : Request} {rest : List Request}

theorem step_of_inbox_nil (h : s.inbox = []) : step s = .next s.beginOp := by
  simp [step, h]

theorem step_of_decode_ok {i : Instr} (h : s.inbox = q :: rest) (hq : decodeRequest q = .ok i) :
    step s = exec i { s with inbox := rest }.beginOp := by
  simp [step, h, hq]

theorem step_of_decode_error {e : DecodeError} (h : s.inbox = q :: rest) (hq : decodeRequest q = .error e) :
    step s = .refused (.badRequest e) := by
  simp [step, h, hq]

end

/-- Settles O4, from the three cases of the inbox; `State.beginOp` is the clearing the statement writes out. That the
decoded operation is well-formed is no restriction (`decodedOperationsAreWellFormed`) and is not needed. -/
theorem stepRunsTheDecodedOperation : Obligations.StepRunsTheDecodedOperation :=
  ⟨fun _ _ _ _ h hq _ => step_of_decode_ok h hq, fun _ h => step_of_inbox_nil h,
    fun _ _ _ _ h hq => step_of_decode_error h hq⟩

end Sys2Proof.Machine
end

section
/-! SUPPORT. The case analysis of `exec`, once for every property of a state: what keeps a property through each
unit's state changes keeps it through every operation but `RESET`, which stays a hypothesis of its own. -/

namespace Sys2Proof.Machine

/-- `P` is kept by every state change a unit can make outside `RESET`: the decoder's byte, the motion cycle, a
returned value, a raised error condition, a write of one motor's estimator registers (a count and its time together) or
PID registers (bounds that stay in order), and the parts of the tuner's operations. -/
structure KeptByUnits (P : State → Prop) : Prop where
  feed : ∀ {s} b, P s → P (feedByte b s)
  cycle : ∀ {s} cs t ovr, P s → P (motionCycle cs t ovr s)
  ret : ∀ {s} v, P s → P (s.ret v)
  raise : ∀ {s} e, P s → P (s.raise e)
  setPre : ∀ {s} m {p : PreRegs},
    (((s.pre.get m).lastCount.isSome ↔ (s.pre.get m).lastT.isSome) → (p.lastCount.isSome ↔ p.lastT.isSome)) →
    P s → P (s.setPre m p)
  setPid : ∀ {s} m {p : PidRegs}, ((s.pid.get m).outMin ≤ (s.pid.get m).outMax → p.outMin ≤ p.outMax) →
    P s → P (s.setPid m p)
  start : ∀ {s} m sp t, P s → P (startTuner m sp t s)
  sample : ∀ {s} rate t, P s → P (tunerSample rate t s)
  trial : ∀ {s} t, P s → P (beginTrial t s)
  trialNumber : ∀ {s} k, P s → P (s.setTuner { s.tuner with k := k })
  cancel : ∀ {s} c, P s → P (s.setTuner { s.tuner with cancel := c })
  finish : ∀ {s} res, P s → P (finish res s)

namespace KeptByUnits

variable {P : State → Prop} {s : State} (hP : KeptByUnits P)

include hP

theorem feedBytes (bs : List Byte) (hs : P s) : P (feedBytes bs s) := by
  induction bs generalizing s with
  | nil => exact hs
  | cons b bs ih => exact ih (hP.feed b hs)

theorem pollByte (t : Time) (ovr : PerMotor (Option Q)) (b : Byte) (hs : P s) : P (pollByte t ovr s b) := by
  unfold Machine.pollByte
  split
  · exact hP.cycle _ t ovr (hP.feed b hs)
  · exact hP.feed b hs

theorem pollBytes (bs : List Byte) (t : Time) (ovr : PerMotor (Option Q)) (hs : P s) : P (pollBytes bs t ovr s) := by
  induction bs generalizing s with
  | nil => exact hs
  | cons b bs ih => exact ih (hP.pollByte t ovr b hs)

theorem preSample (m : Motor) (delta : Nat) (elapsed : Q) (hs : P s) : P (preSample m delta elapsed s) := by
  unfold Machine.preSample
  split
  · exact hP.raise _ hs
  · exact hP.setPre m id hs

theorem preDifference (m : Motor) (count : Nat) (t : Time) (hs : P s) : P (preDifference m count t s) := by
  unfold Machine.preDifference
  split
  · split
    · exact hP.raise _ hs
    · exact hP.preSample m _ _ hs
  · exact hs

theorem preTick (m : Motor) (count : Nat) (t : Time) (hs : P s) : P (preTick m count t s) :=
  hP.setPre m (fun _ => Iff.rfl) (hP.preDifference m count t hs)

theorem pidUpdate (m : Motor) (meas : Q) (t : Time) (hs : P s) : P (pidUpdate m meas t s) := hP.setPid m id hs

theorem tunerDecide (t : Time) (hs : P s) : P (tunerDecide t s) := by
  unfold Machine.tunerDecide
  split
  · exact hP.finish _ hs
  · split
    · exact hP.finish _ hs
    · split
      · split
        · exact hP.finish _ (hP.trialNumber _ hs)
        · exact hP.trial t (hP.trialNumber _ hs)
      · exact hs

end KeptByUnits

/-- The two ways a guarded operation answers. -/
theorem ite_eq_next {c : Prop} [Decidable c] {x y : Host.Outcome State Fault Refusal} {s' : State} {G : Prop}
    (h : (if c then x else y) = .next s') (hx : c → x = .next s' → G) (hy : ¬ c → y = .next s' → G) : G := by
  by_cases hc : c
  · exact hx hc ((if_pos hc).symm.trans h)
  · exact hy hc ((if_neg hc).symm.trans h)

/-- All `RESET` can do (R420, R432): refuse, or put every register at its reset value under a valid configuration. -/
theorem exec_reset_cases {v : Option Variant} {par : Params} {s s' : State} (h : exec (.reset v par) s = .next s') :
    s' = s ∨ ∃ c, validCfg c = true ∧ s' = { State.resetWith c with
      inbox := s.inbox, outputs := s.outputs, errors := s.errors, result := s.result } := by
  cases v with
  | none => cases h; exact .inl rfl
  | some v =>
    exact ite_eq_next h (fun | hc, rfl => .inr ⟨⟨v, par⟩, hc, rfl⟩) (fun | _, rfl => .inl rfl)

/-- What every unit keeps, every operation but `RESET` keeps. -/
theorem KeptByUnits.exec {P : State → Prop} (hP : KeptByUnits P) {i : Instr} {s s' : State}
    (hi : ∀ v par, i ≠ .reset v par) (hs : P s) (h : exec i s = .next s') : P s' := by
  cases i with
  | iframe ch ck => cases h; exact hP.feedBytes _ hs
  | pframe ch b23 => cases h; exact hP.feedBytes _ hs
  | reset v par => exact absurd rfl (hi v par)
  | fdFeed b => cases h; exact hP.feed b hs
  | msmCycle cs t ovr => cases h; exact hP.cycle cs t ovr hs
  | preSample m delta elapsed => cases h; exact hP.ret _ (hP.preSample m delta elapsed hs)
  | preTick m count t => cases h; exact hP.ret _ (hP.preTick m count t hs)
  | pidUpdate m meas t =>
    exact ite_eq_next h (fun | _, rfl => hP.ret _ hs) (fun | _, rfl => hP.ret _ (hP.pidUpdate m meas t hs))
  | pidReset m => exact ite_eq_next h (fun | _, rfl => hs) (fun | _, rfl => hP.setPid m id hs)
  | pidSetGains m kp ki kd => exact ite_eq_next h (fun | _, rfl => hs) (fun | _, rfl => hP.setPid m id hs)
  | pidSetSetpoint m sp => exact ite_eq_next h (fun | _, rfl => hs) (fun | _, rfl => hP.setPid m id hs)
  | pidSetBounds m lo hi =>
    exact ite_eq_next h (fun | _, rfl => hs)
      (fun | hb, rfl => hP.setPid m (fun _ => not_lt.mp fun hlt => hb (.inr hlt)) hs)
  | atStart m sp t => exact ite_eq_next h (fun | _, rfl => hs) (fun | _, rfl => hP.start m sp t hs)
  | atSample rate t =>
    exact ite_eq_next h (fun | _, rfl => hs) fun _ h => ite_eq_next h (fun | _, rfl => hP.finish _ hs)
      (fun | _, rfl => hP.tunerDecide t (hP.sample rate t hs))
  | atCancel => exact ite_eq_next h (fun | _, rfl => hP.cancel true hs) (fun | _, rfl => hs)
  | cmMap cs => cases h; exact hP.ret _ hs
  | preRpm m rate => cases h; exact hP.ret _ hs
  | reservedF => cases h; exact hs
  | fdFeedBurst bytes => cases h; exact hP.feedBytes bytes hs
  | loopPoll bytes t ovr => cases h; exact hP.pollBytes bytes t ovr hs
  | cmRange cs => cases h; exact hP.ret _ hs

/-- What every unit keeps and `RESET` with a valid configuration keeps, a step keeps, when clearing the outputs and
taking a request off the inbox does not break it. -/
theorem KeptByUnits.step {P : State → Prop} (hP : KeptByUnits P)
    (hreset : ∀ s c, P s → validCfg c = true → P { State.resetWith c with
      inbox := s.inbox, outputs := s.outputs, errors := s.errors, result := s.result })
    {s s' : State} (hbegin : ∀ rest, P { s with inbox := rest }.beginOp) (h : step s = .next s') : P s' := by
  cases hbox : s.inbox with
  | nil =>
    rw [step_of_inbox_nil hbox] at h
    cases h
    exact hbegin s.inbox
  | cons q rest =>
    cases hq : decodeRequest q with
    | error e => rw [step_of_decode_error hbox hq] at h; cases h
    | ok i =>
      rw [step_of_decode_ok hbox hq] at h
      by_cases hi : ∀ v par, i ≠ .reset v par
      · exact hP.exec hi (hbegin rest) h
      · push Not at hi
        obtain ⟨v, par, rfl⟩ := hi
        rcases exec_reset_cases h with rfl | ⟨c, hc, rfl⟩
        · exact hbegin rest
        · exact hreset _ c (hbegin rest) hc

end Sys2Proof.Machine
end

section
/-! SUPPORT. The invariant `SafeState`: each part of it under the updates that touch it, then the state after `RESET`,
every unit's state changes, and every step. -/

namespace Sys2Proof

/-- A property of every motor's entry survives a write of an entry that has it. -/
theorem PerMotor.forall_get_set {α : Type} {p : PerMotor α} {Q : α → Prop} (hp : ∀ n, Q (p.get n)) (m : Motor) {x : α}
    (hx : Q x) (n : Motor) : Q ((p.set m x).get n) := by
  by_cases h : n = m
  · subst h
    rwa [PerMotor.get_set_self]
  · rw [PerMotor.get_set_ne p x h]
    exact hp n

end Sys2Proof

namespace Sys2Proof.Machine

/-! ### What a valid configuration gives (70_reset_and_hazards.md R431) -/

section

variable {c : Cfg} (h : validCfg c = true)

include h

/-- V2. -/
theorem frameLen_le_bufCap_of_validCfg : (frameLen c.variant : Int) ≤ c.par.bufCap := by
  simp only [validCfg, cfgBufOk, Bool.and_eq_true, decide_eq_true_eq] at h
  omega

/-- V9. -/
theorem counts_of_validCfg : 0 ≤ c.par.motion.warmupCount ∧ 1 ≤ c.par.motion.armCount := by
  simp only [validCfg, cfgMotionOk, Bool.and_eq_true, decide_eq_true_eq] at h
  omega

/-- V13. -/
theorem bounds_of_validCfg (m : Motor) : (c.par.pidInit.get m).outMin0 ≤ (c.par.pidInit.get m).outMax0 := by
  simp only [validCfg, cfgMotorOk, Bool.and_eq_true, decide_eq_true_eq] at h
  obtain ⟨⟨-, ⟨-, hl⟩, hr⟩, -⟩ := h
  cases m
  · exact hl
  · exact hr

end

/-! ### The frame decoder's part -/

/-- One `FD_FEED` leaves `last_good` alone or writes what the decoder emits, which has the form of R34. -/
theorem feedByte_lastGood_channelsOf {s : State} (b : Byte) (hn : BufNormal s.cfg.variant s.buf)
    (hc : (frameLen s.cfg.variant : Int) ≤ s.cfg.par.bufCap)
    (hg : ∀ cs, s.lastGood = some cs → ChannelsOf s.cfg.variant cs) :
    ∀ cs, (feedByte b s).lastGood = some cs → ChannelsOf s.cfg.variant cs := by
  rw [feedByte, applyScan_lastGood]
  rcases feedScan_cases b hn hc with ⟨-, e⟩ | ⟨-, -, e⟩ | ⟨-, -, e⟩ <;> rw [e]
  · exact hg
  · rintro cs ⟨⟩
    exact decodeWindow_channelsOf _ _
  · exact hg

theorem feedByte_fdInv {s : State} (b : Byte) (hc : (frameLen s.cfg.variant : Int) ≤ s.cfg.par.bufCap) (h : FdInv s) :
    FdInv (feedByte b s) :=
  ⟨feedByte_bufNormal b h.1 hc, feedByte_lastGood_channelsOf b h.1 hc h.2⟩

/-- A buffer in normal form respects every cap that leaves room for a frame. -/
theorem wf_of_bufNormal {v : Variant} {cap : Int} {buf : List Byte} (h : BufNormal v buf) (hc : (frameLen v : Int) ≤ cap) :
    Memory.wf cap buf := (Int.ofNat_le.mpr h.2.le).trans hc

/-! ### The arm state's part -/

/-- The low-sample count saturates at `ARM_COUNT` (R215). -/
theorem lowNext_le {cfg : Cfg} (h : 0 ≤ cfg.par.motion.armCount) (cs : ChannelSet) (n : Nat) :
    (lowNext cfg cs n : Int) ≤ cfg.par.motion.armCount := by
  unfold lowNext
  split <;> omega

/-- A warmup frame brings the count one nearer to `WARMUP_COUNT`, and ends `WARMUP` exactly there (R214). -/
theorem warmupCycle_armInv {s : State} (hw : s.arm = .warmup) (h : ArmInv s) : ArmInv (warmupCycle s) := by
  obtain ⟨hin, -, hlow⟩ := h
  have hlt := hin hw
  rw [warmupCycle_eq]
  by_cases hge : ((s.warmCnt + 1 : Nat) : Int) ≥ s.cfg.par.motion.warmupCount
  · simp only [ArmInv, hge, if_true]
    exact ⟨fun harm => (nomatch harm), fun _ => by omega, hlow⟩
  · simp only [ArmInv, hge, if_false]
    exact ⟨fun _ => not_le.mp hge, fun harm => absurd hw harm, hlow⟩

/-- A processed cycle stays outside `WARMUP` (R213) and keeps the low-sample count within its bound (R215). -/
theorem processedCycle_armInv {s : State} (hw : s.arm ≠ .warmup) (hc : 0 ≤ s.cfg.par.motion.armCount) (cs : ChannelSet)
    (t : Time) (ovr : PerMotor (Option Q)) (h : ArmInv s) : ArmInv (processedCycle cs t ovr s) := by
  obtain ⟨-, hout, -⟩ := h
  obtain ⟨harm, hlow, -⟩ := processedCycle_flags cs t ovr s
  obtain ⟨_, _, _, _, _, _, _, _, _, hframe⟩ := processedCycle_frame cs t ovr s
  have hcfg : (processedCycle cs t ovr s).cfg = s.cfg := by rw [hframe]
  have hwarm : (processedCycle cs t ovr s).warmCnt = s.warmCnt := by rw [hframe]
  unfold ArmInv
  rw [harm, hlow, hcfg, hwarm]
  exact ⟨fun ha => absurd ha (armNext_ne_warmup hw), fun _ => hout hw, lowNext_le hc cs _⟩

/-! ### The motors' part -/

/-- PID bounds in order (R46). -/
def BoundsOk (p : PidRegs) : Prop := p.outMin ≤ p.outMax

/-- A count reading stands with its time (R47). -/
def ReadingOk (p : PreRegs) : Prop := p.lastCount.isSome ↔ p.lastT.isSome

/-- The motors' part, register file by register file. -/
theorem motorInv_iff {s : State} : MotorInv s ↔
    (∀ m, SpeedOk (s.cmd.get m)) ∧ (∀ m, BoundsOk (s.pid.get m)) ∧ ∀ m, ReadingOk (s.pre.get m) := by
  simp only [MotorInv, BoundsOk, ReadingOk, forall_and]

/-- A stopped motor's speed is in range. -/
theorem speedOk_stopped (d : Spin) (b : Bool) : SpeedOk ⟨0, d, b⟩ := by
  constructor <;> norm_num

/-- What the tuner writes to its motor: a command in range, and PID registers whose bounds stay. -/
theorem motorInv_of_set {s s' : State} {m : Motor} {c : MotorCommand} {p : PidRegs} (h : MotorInv s)
    (hcmd : s'.cmd = s.cmd.set m c) (hpid : s'.pid = s.pid.set m p) (hpre : s'.pre = s.pre) (hc : SpeedOk c)
    (hp : BoundsOk (s.pid.get m) → BoundsOk p) : MotorInv s' := by
  obtain ⟨hspeed, hbounds, hread⟩ := motorInv_iff.mp h
  rw [motorInv_iff, hcmd, hpid, hpre]
  exact ⟨PerMotor.forall_get_set hspeed m hc, PerMotor.forall_get_set hbounds m (hp (hbounds m)), hread⟩

/-- Driving a motor leaves every speed in [0, 1] (R225). -/
theorem driveMotor_speedOk (cfg : Cfg) (cs : ChannelSet) (ovr : PerMotor (Option Q)) (m : Motor) {s : State}
    (h : ∀ n, SpeedOk (s.cmd.get n)) (n : Motor) : SpeedOk ((driveMotor (cmMap cfg cs) ovr m s).cmd.get n) := by
  rw [driveMotor_cmd_get]
  split
  · exact motorSpeed_bounds cfg cs ovr m s
  · exact h n

theorem processedCycle_speedOk (cs : ChannelSet) (t : Time) (ovr : PerMotor (Option Q)) {s : State}
    (h : ∀ n, SpeedOk (s.cmd.get n)) : ∀ n, SpeedOk ((processedCycle cs t ovr s).cmd.get n) := by
  have hsettled : ∀ n, SpeedOk ((settled cs s).cmd.get n) := by
    rw [settled_eq]
    exact h
  rw [processedCycle_eq, adviseNotArmed_cmd]
  exact driveMotor_speedOk s.cfg cs ovr .R (driveMotor_speedOk s.cfg cs ovr .L hsettled)

/-! ### The crossing registers' part -/

theorem trialRegs_crossInv (t : Time) (r : TunerRegs) : CrossInv (trialRegs t r) := by
  simp [CrossInv, trialRegs]

/-- A crossing is recorded only later than the last one, and shifts the others one place (R318). -/
theorem recordCrossing_crossInv (e : Q) (t : Time) {r : TunerRegs} (h : CrossInv r) : CrossInv (recordCrossing e t r) := by
  have ⟨hc1, hc2, _, h12, _⟩ := h
  rcases recordCrossing_cases e t r with ⟨-, heq⟩ | ⟨-, hlater, heq⟩ | ⟨-, heq⟩ <;> rw [heq]
  · exact h
  · refine ⟨by simp, ?_, ?_, ?_, h12⟩
    · exact Iff.trans (by simp only; omega) hc1
    · exact Iff.trans (by simp only; omega) hc2
    · rintro a b ⟨⟩ hb
      exact hlater b hb
  · exact h

/-! ### RESET -/

theorem resetWith_armInv {c : Cfg} (h : validCfg c = true) : ArmInv (State.resetWith c) := by
  obtain ⟨hwarm, harm⟩ := counts_of_validCfg h
  have hlow : ((State.resetWith c).lowCnt : Int) ≤ c.par.motion.armCount := by
    simp only [State.resetWith]
    omega
  by_cases hpos : c.par.motion.warmupCount > 0
  · exact ⟨fun _ => hpos, fun hne => absurd (if_pos hpos) hne, hlow⟩
  · have hzero : (0 : Int) = c.par.motion.warmupCount := by omega
    exact ⟨fun hw => (nomatch (if_neg hpos).symm.trans hw), fun _ => hzero, hlow⟩

theorem resetWith_motorInv {c : Cfg} (h : validCfg c = true) : MotorInv (State.resetWith c) := by
  intro m
  have hb := bounds_of_validCfg h m
  cases m
  · exact ⟨speedOk_stopped _ _, hb, Iff.rfl⟩
  · exact ⟨speedOk_stopped _ _, hb, Iff.rfl⟩

theorem safeState_resetWith {c : Cfg} (h : validCfg c = true) : SafeState (State.resetWith c) := by
  have hcap := frameLen_le_bufCap_of_validCfg h
  refine ⟨h, wf_of_bufNormal (bufNormal_nil _) hcap, ⟨bufNormal_nil _, fun _ hg => nomatch hg⟩, resetWith_armInv h,
    resetWith_motorInv h, ?_, ?_⟩
  · simp [CrossInv, State.resetWith, TunerRegs.atReset]
  · simp [OwnerInv, State.resetWith, TunerRegs.atReset]

/-- Settles O7, part by part of the invariant; the model's own configuration is a valid one. -/
theorem resetStateIsSafe : Obligations.ResetStateIsSafe :=
  ⟨safeState_resetWith (by decide +kernel), fun _ h => safeState_resetWith h⟩

/-! ### Every unit -/

section

variable {s : State}

theorem safeState_feedByte (b : Byte) (h : SafeState s) : SafeState (feedByte b s) := by
  obtain ⟨hcfg, -, hfd, harm, hmotor, hcross, howner⟩ := h
  have hcap := frameLen_le_bufCap_of_validCfg hcfg
  have hfd' := feedByte_fdInv b hcap hfd
  exact ⟨hcfg, wf_of_bufNormal hfd'.1 hcap, hfd', harm, hmotor, hcross, howner⟩

theorem safeState_motionCycle (cs : ChannelSet) (t : Time) (ovr : PerMotor (Option Q)) (h : SafeState s) :
    SafeState (motionCycle cs t ovr s) := by
  obtain ⟨hcfg, hwf, hfd, harm, hmotor, hcross, howner⟩ := h
  unfold motionCycle
  split
  case isTrue hw =>
    have harm' := warmupCycle_armInv hw harm
    rw [warmupCycle_eq] at harm' ⊢
    exact ⟨hcfg, hwf, hfd, harm', hmotor, hcross, howner⟩
  case isFalse hw =>
    obtain ⟨hspeed, hbounds, hread⟩ := motorInv_iff.mp hmotor
    have harm' := processedCycle_armInv hw (by linarith [counts_of_validCfg hcfg]) cs t ovr harm
    have hspeed' := processedCycle_speedOk cs t ovr hspeed
    obtain ⟨_, _, _, _, _, _, _, _, _, hframe⟩ := processedCycle_frame cs t ovr s
    rw [hframe] at harm' hspeed' ⊢
    exact ⟨hcfg, hwf, hfd, harm', motorInv_iff.mpr ⟨hspeed', hbounds, hread⟩, hcross, howner⟩

theorem safeState_setPre (m : Motor) {p : PreRegs} (hp : ReadingOk (s.pre.get m) → ReadingOk p) (h : SafeState s) :
    SafeState (s.setPre m p) := by
  obtain ⟨hcfg, hwf, hfd, harm, hmotor, hcross, howner⟩ := h
  obtain ⟨hspeed, hbounds, hread⟩ := motorInv_iff.mp hmotor
  have hmotor' : MotorInv (s.setPre m p) :=
    motorInv_iff.mpr ⟨hspeed, hbounds, PerMotor.forall_get_set hread m (hp (hread m))⟩
  exact ⟨hcfg, hwf, hfd, harm, hmotor', hcross, howner⟩

theorem safeState_setPid (m : Motor) {p : PidRegs} (hp : BoundsOk (s.pid.get m) → BoundsOk p) (h : SafeState s) :
    SafeState (s.setPid m p) := by
  obtain ⟨hcfg, hwf, hfd, harm, hmotor, hcross, howner⟩ := h
  obtain ⟨hspeed, hbounds, hread⟩ := motorInv_iff.mp hmotor
  have hmotor' : MotorInv (s.setPid m p) :=
    motorInv_iff.mpr ⟨hspeed, PerMotor.forall_get_set hbounds m (hp (hbounds m)), hread⟩
  exact ⟨hcfg, hwf, hfd, harm, hmotor', hcross, howner⟩

/-- `AT_START` takes the ownership as it starts to run, and records no crossing yet (R310). -/
theorem safeState_startTuner (m : Motor) (sp : Q) (t : Time) (h : SafeState s) : SafeState (startTuner m sp t s) := by
  obtain ⟨hcfg, hwf, hfd, harm, hmotor, -, -⟩ := h
  rw [startTuner_eq]
  exact ⟨hcfg, hwf, hfd, harm, motorInv_of_set hmotor rfl rfl rfl (speedOk_stopped _ _) id, trialRegs_crossInv _ _,
    fun n => by simp [trialRegs]⟩

/-- A sample sends a duty in [0, 1] (R316) and keeps the tuner running on its motor. -/
theorem safeState_tunerSample (rate : Q) (t : Time) (h : SafeState s) : SafeState (tunerSample rate t s) := by
  obtain ⟨hcfg, hwf, hfd, harm, hmotor, hcross, howner⟩ := h
  rw [tunerSample_eq]
  exact ⟨hcfg, hwf, hfd, harm, motorInv_of_set hmotor rfl rfl rfl (clamp_bounds zero_le_one) id,
    recordCrossing_crossInv _ _ hcross, fun n => by simpa using howner n⟩

theorem safeState_beginTrial (t : Time) (h : SafeState s) : SafeState (beginTrial t s) := by
  obtain ⟨hcfg, hwf, hfd, harm, hmotor, -, howner⟩ := safeState_setPid s.tuner.motor
    (p := trialPid s.cfg s.tuner.k s.tuner.sp (s.pid.get s.tuner.motor)) id h
  exact ⟨hcfg, hwf, hfd, harm, hmotor, trialRegs_crossInv _ _, howner⟩

/-- `finish` gives the ownership back as the tuner goes idle (R328). -/
theorem safeState_finish (res : TuneResult) (h : SafeState s) : SafeState (finish res s) := by
  obtain ⟨hcfg, hwf, hfd, harm, hmotor, hcross, -⟩ := h
  have hbounds : BoundsOk (s.pid.get s.tuner.motor) →
      BoundsOk (finishPid res s.tuner.saved (s.pid.get s.tuner.motor)) := by
    simp [BoundsOk]
  rw [finish_eq]
  exact ⟨hcfg, hwf, hfd, harm, motorInv_of_set hmotor rfl rfl rfl (speedOk_stopped _ _) hbounds, hcross,
    fun n => by simp [finishRegs]⟩

end

/-- Every unit keeps the invariant. Returned values, raised conditions, the trial number and the cancel request stand in
no part of it. -/
theorem safeState_keptByUnits : KeptByUnits SafeState where
  feed := safeState_feedByte
  cycle := safeState_motionCycle
  ret _ h := h
  raise _ h := h
  setPre := safeState_setPre
  setPid := safeState_setPid
  start := safeState_startTuner
  sample := safeState_tunerSample
  trial := safeState_beginTrial
  trialNumber _ h := h
  cancel _ h := h
  finish := safeState_finish

/-- Settles O8: the units keep the invariant, and `RESET` establishes it (O7). -/
theorem everyStepKeepsTheInvariant : Obligations.EveryStepKeepsTheInvariant := fun _ _ hs h =>
  safeState_keptByUnits.step (fun _ _ _ hc => safeState_resetWith hc) (fun _ => hs) h

end Sys2Proof.Machine
end

section
/-! SUPPORT. Two safety properties of 10_state.md R59 over the same case analysis: the duties sent, and the arm
state. -/

namespace Sys2Proof.Machine

/-! ### The duties sent (R59 (c)) -/

/-- Every duty among the outputs of the operation so far lies in [0, 1]. -/
def DutiesOk (s : State) : Prop := ∀ o ∈ s.outputs, DutyOk o

/-- Further outputs keep the property when each of them has it. -/
theorem dutiesOk_of_append {s s' : State} {os : List Output} (hs : DutiesOk s) (he : s'.outputs = s.outputs ++ os)
    (hos : ∀ o ∈ os, DutyOk o) : DutiesOk s' := by
  unfold DutiesOk
  rw [he, List.forall_mem_append]
  exact ⟨hs, hos⟩

/-- The scan of any buffer puts out frames and rejections only. -/
theorem scanLoop_dutyOk (v : Variant) (n : Nat) :
    ∀ r : Scan, (∀ o ∈ r.outs, DutyOk o) → ∀ o ∈ (scanLoop v n r).outs, DutyOk o := by
  induction n with
  | zero => exact fun _ h => h
  | succ n ih =>
    intro r h
    have hmore : ∀ {x}, DutyOk x → ∀ o ∈ r.outs ++ [x], DutyOk o := fun hx =>
      List.forall_mem_append.mpr ⟨h, List.forall_mem_singleton.mpr hx⟩
    unfold scanLoop
    split
    · exact h
    · split
      · exact ih _ h
      · split
        · exact h
        · split
          · exact ih _ (hmore trivial)
          · exact ih _ (hmore trivial)

section

variable {s : State}

theorem dutiesOk_feedByte (b : Byte) (h : DutiesOk s) : DutiesOk (feedByte b s) :=
  dutiesOk_of_append h rfl (scanLoop_dutyOk _ _ _ (List.forall_mem_nil _))

theorem dutiesOk_warmupCycle (h : DutiesOk s) : DutiesOk (warmupCycle s) := by
  rw [warmupCycle_eq]
  exact dutiesOk_of_append h rfl (by simp [DutyOk])

/-- Before the motors are driven a cycle puts out events only. -/
theorem dutiesOk_settled (cs : ChannelSet) (h : DutiesOk s) : DutiesOk (settled cs s) := by
  rw [settled_eq]
  simp only [List.append_assoc]
  refine dutiesOk_of_append h rfl ?_
  simp only [List.mem_append, List.mem_ite_nil_left, List.mem_ite_nil_right, List.mem_singleton]
  rintro o (⟨-, rfl⟩ | ⟨-, rfl⟩ | ⟨-, rfl⟩ | ⟨-, rfl⟩) <;> trivial

theorem motorCalls_dutyOk {v : Q} (hv : 0 ≤ v ∧ v ≤ 1) (d : Spin) (m : Motor) (b : Bool) (sent : Option Bool) :
    ∀ o ∈ motorCalls d v m b sent, DutyOk o := by
  simp [motorCalls, DutyOk, hv]

theorem dutiesOk_driveMotor (cfg : Cfg) (cs : ChannelSet) (ovr : PerMotor (Option Q)) (m : Motor) (h : DutiesOk s) :
    DutiesOk (driveMotor (cmMap cfg cs) ovr m s) := by
  rw [driveMotor_eq]
  split
  · exact h
  · exact dutiesOk_of_append h rfl (motorCalls_dutyOk (motorSpeed_bounds cfg cs ovr m s) _ _ _ _)

theorem dutiesOk_adviseNotArmed (it : Intent) (ovr : PerMotor (Option Q)) (t : Time) (h : DutiesOk s) :
    DutiesOk (adviseNotArmed it ovr t s) := by
  rw [adviseNotArmed_eq]
  split
  · exact dutiesOk_of_append h rfl (by simp [DutyOk])
  · exact h

theorem dutiesOk_motionCycle (cs : ChannelSet) (t : Time) (ovr : PerMotor (Option Q)) (h : DutiesOk s) :
    DutiesOk (motionCycle cs t ovr s) := by
  unfold motionCycle
  split
  · exact dutiesOk_warmupCycle h
  · rw [processedCycle_eq]
    exact dutiesOk_adviseNotArmed _ ovr t
      (dutiesOk_driveMotor s.cfg cs ovr .R (dutiesOk_driveMotor s.cfg cs ovr .L (dutiesOk_settled cs h)))

theorem dutiesOk_startTuner (m : Motor) (sp : Q) (t : Time) (h : DutiesOk s) : DutiesOk (startTuner m sp t s) := by
  rw [startTuner_eq]
  exact dutiesOk_of_append h rfl (by simp [DutyOk])

/-- The tuner limits the duty of a sample itself, whatever the PID bounds are (R316). -/
theorem dutiesOk_tunerSample (rate : Q) (t : Time) (h : DutiesOk s) : DutiesOk (tunerSample rate t s) := by
  rw [tunerSample_eq]
  exact dutiesOk_of_append h rfl (List.forall_mem_singleton.mpr (clamp_bounds zero_le_one))

theorem dutiesOk_finish (res : TuneResult) (h : DutiesOk s) : DutiesOk (finish res s) := by
  have hnote : ∀ o ∈ finishNoteOutputs s.tuner.motor res, DutyOk o := by
    cases res <;> simp [finishNoteOutputs, DutyOk]
  rw [finish_eq]
  simp only [List.append_assoc]
  refine dutiesOk_of_append h rfl ?_
  simpa [DutyOk, or_imp, forall_and] using hnote

end

/-- Every unit sends duties in [0, 1] only; register writes send nothing. -/
theorem dutiesOk_keptByUnits : KeptByUnits DutiesOk where
  feed := dutiesOk_feedByte
  cycle := dutiesOk_motionCycle
  ret _ h := h
  raise _ h := h
  setPre _ _ _ h := h
  setPid _ _ _ h := h
  start := dutiesOk_startTuner
  sample := dutiesOk_tunerSample
  trial _ h := h
  trialNumber _ h := h
  cancel _ h := h
  finish := dutiesOk_finish

/-- Settles O9: a step begins with no output, every unit keeps the bound, and `RESET` sends nothing. -/
theorem everyDutySentIsAFraction : Obligations.EveryDutySentIsAFraction := fun _ _ h =>
  dutiesOk_keptByUnits.step (fun _ _ hs _ => hs) (fun _ => List.forall_mem_nil _) h

/-! ### The arm state (R59 (d), R213) -/

theorem motionCycle_arm_ne_warmup {s : State} (cs : ChannelSet) (t : Time) (ovr : PerMotor (Option Q))
    (h : s.arm ≠ .warmup) : (motionCycle cs t ovr s).arm ≠ .warmup := by
  obtain ⟨harm, -, -⟩ := processedCycle_flags cs t ovr s
  rw [motionCycle, if_neg h, harm]
  exact armNext_ne_warmup h

/-- Outside `WARMUP` every unit stays outside it; only the motion cycle writes the arm state at all. -/
theorem arm_ne_warmup_keptByUnits : KeptByUnits (·.arm ≠ .warmup) where
  feed _ h := h
  cycle := motionCycle_arm_ne_warmup
  ret _ h := h
  raise _ h := h
  setPre _ _ _ h := h
  setPid _ _ _ h := h
  start m sp t h := by rwa [startTuner_eq]
  sample rate t h := by rwa [tunerSample_eq]
  trial _ h := h
  trialNumber _ h := h
  cancel _ h := h
  finish res h := by rwa [finish_eq]

/-- Settles O11: every operation but `RESET` is made of what the units do. -/
theorem onlyResetEntersWarmup : Obligations.OnlyResetEntersWarmup := fun _ _ _ hi hs h =>
  arm_ne_warmup_keptByUnits.exec hi hs h

end Sys2Proof.Machine
end

section
/-! SUPPORT. Requests as bytes: every encoding is read back, what the bytes written out from the spec stand for, and
the reserved code (30_encoding.md R125 to R131). -/

namespace Sys2Proof

/-! ### Requests with a code or a select -/

/-- A command whose operand decoder uses up exactly its operand bytes. -/
theorem decodeRequest_command {code : Byte} {ops : List Byte} {i : Instr}
    (h : ∀ rest, decOperands code.toNat (ops ++ rest) = .ok (i, rest)) :
    decodeRequest ⟨.command, code :: ops⟩ = .ok i :=
  decWhole_of_ok (by simpa using h [])

/-- A pseudo-operation whose operand decoder uses up exactly its operand bytes. -/
theorem decodeRequest_pseudo {sel : Byte} {ops : List Byte} {i : Instr}
    (h : ∀ rest, decPseudo sel.toNat (ops ++ rest) = .ok (i, rest)) :
    decodeRequest ⟨.pseudo, sel :: ops⟩ = .ok i :=
  decWhole_of_ok (by simpa using h [])

theorem readsBack_overrides (ovr : PerMotor (Option Q)) :
    ReadsBack (decPerMotor (decOption decQ)) (encPerMotor (encOption encQ)) ovr :=
  readsBack_perMotor (fun _ => readsBack_option fun q _ => readsBack_q q) ovr

theorem readsBack_bytes (bs : List Byte) : ReadsBack (decList decByte) (encList fun b => [b]) bs :=
  readsBack_list bs fun b _ => readsBack_byte b

/-! ### The frames on the transport -/

theorem decTransport_iframeBytes (ch : Vector U16 14) (ck : U16) :
    decTransport (iframeBytes ch ck) = .iframe ch ck := by
  have hframe : (iframeBytes ch ck).length = 32 ∧ (iframeBytes ch ck).take 2 = [0x20, 0x40] :=
    ⟨iframeBytes_length ch ck, rfl⟩
  have hch : (Vector.ofFn fun i : Fin 14 => BitVec.ofNat 16 (intervalChan (iframeBytes ch ck) (i.val + 1))) = ch := by
    ext k hk
    simp [intervalChan_iframeBytes ch ck k hk]
  rw [decTransport, if_pos hframe, hch, storedChecksum_iframeBytes, BitVec.ofNat_toNat, BitVec.setWidth_eq]

/-- The length alone tells a parity frame from an interval packet (R100). -/
theorem decTransport_pframeBytes (ch : Vector U11 16) (b23 : Byte) :
    decTransport (pframeBytes ch b23) = .pframe ch b23 := by
  have hlen : (pframeBytes ch b23).length = 25 := pframeBytes_length ch b23
  have hframe : (pframeBytes ch b23).length = 25 ∧ (pframeBytes ch b23).take 1 = [0x0F] ∧
      (pframeBytes ch b23).drop 24 = [0x00] :=
    ⟨hlen, rfl, rfl⟩
  have hch : (Vector.ofFn fun i : Fin 16 => BitVec.ofNat 11 (parityChan (pframeBytes ch b23) (i.val + 1))) = ch := by
    ext k hk
    simp [parityChan_pframeBytes ch b23 k hk]
  have h23 : byteAt (pframeBytes ch b23) 23 = b23 := rfl
  rw [decTransport, if_neg (by simp [hlen]), if_pos hframe, hch, h23]

/-! ### Every operation is read back -/

/-- Settles O1: the frames by the classification of the transport, and every other operation because its operand
decoder reads its operands back one after another. Well-formedness serves only the `Time` operands. -/
theorem decodeOfEncodeIsIdentity : Obligations.DecodeOfEncodeIsIdentity := by
  intro i hwf
  cases i with
  | iframe ch ck => exact congrArg Except.ok (decTransport_iframeBytes ch ck)
  | pframe ch b23 => exact congrArg Except.ok (decTransport_pframeBytes ch b23)
  | reset v p =>
    exact decodeRequest_command fun _ => by
      simp [decOperands, (readsBack_variant _).bind, (readsBack_params _).bind]
  | fdFeed b => exact decodeRequest_command fun _ => rfl
  | msmCycle cs t ovr =>
    exact decodeRequest_command fun _ => by
      simp [decOperands, (readsBack_channels _).bind, (readsBack_time hwf).bind, (readsBack_overrides _).bind]
  | preSample m d e =>
    exact decodeRequest_command fun _ => by
      simp [decOperands, (readsBack_motor _).bind, (readsBack_nat _).bind, (readsBack_q _).bind]
  | preTick m c t =>
    exact decodeRequest_command fun _ => by
      simp [decOperands, (readsBack_motor _).bind, (readsBack_nat _).bind, (readsBack_time hwf).bind]
  | pidUpdate m x t =>
    exact decodeRequest_command fun _ => by
      simp [decOperands, (readsBack_motor _).bind, (readsBack_q _).bind, (readsBack_time hwf).bind]
  | pidReset m => exact decodeRequest_command ((readsBack_motor m).bind _)
  | pidSetGains m kp ki kd =>
    exact decodeRequest_command fun _ => by
      simp [decOperands, (readsBack_motor _).bind, (readsBack_q _).bind]
  | pidSetSetpoint m sp =>
    exact decodeRequest_command fun _ => by
      simp [decOperands, (readsBack_motor _).bind, (readsBack_q _).bind]
  | pidSetBounds m lo hi =>
    exact decodeRequest_command fun _ => by
      simp [decOperands, (readsBack_motor _).bind, (readsBack_q _).bind]
  | atStart m sp t =>
    exact decodeRequest_command fun _ => by
      simp [decOperands, (readsBack_motor _).bind, (readsBack_q _).bind, (readsBack_time hwf).bind]
  | atSample r t =>
    exact decodeRequest_command fun _ => by
      simp [decOperands, (readsBack_q _).bind, (readsBack_time hwf).bind]
  | atCancel => rfl
  | cmMap cs => exact decodeRequest_command ((readsBack_channels cs).bind _)
  | preRpm m r =>
    exact decodeRequest_command fun _ => by
      simp [decOperands, (readsBack_motor _).bind, (readsBack_q _).bind]
  | reservedF => rfl
  | fdFeedBurst bs => exact decodeRequest_pseudo ((readsBack_bytes bs).bind _)
  | loopPoll bs t ovr =>
    exact decodeRequest_pseudo fun _ => by
      simp [decPseudo, (readsBack_bytes _).bind, (readsBack_time hwf).bind, (readsBack_overrides _).bind]
  | cmRange cs => exact decodeRequest_pseudo ((readsBack_channels cs).bind _)

/-! ### Bytes written out -/

/-- Settles O2, by running the decoder on each of the twenty-one byte lists. Their bytes come from the spec and not from
`encode`, so that this pins the codes and the layout that `decodeOfEncodeIsIdentity` alone would leave free. -/
theorem knownBytesDecode : Obligations.KnownBytesDecode := by
  refine ⟨?_, ?_, ?_, ?_, ?_, ?_, ?_, ?_, ?_, ?_, ?_, ?_, ?_, ?_, ?_, ?_, ?_, ?_, ?_, ?_, ?_⟩ <;> decide +kernel

/-! ### Code `0xF` (R127) -/

@[simp] theorem decodeRequest_reservedF (bytes : List Byte) :
    decodeRequest ⟨.command, 0x0F :: bytes⟩ = .ok .reservedF := rfl

/-- Only an operation with a code of R125 is encoded on the command port, and that code is its first byte. -/
theorem opCode_of_encode_command {i : Instr} {code : Byte} {ops : List Byte}
    (h : encode i = ⟨.command, code :: ops⟩) : i.opCode = some code.toNat := by
  cases i <;> cases h <;> rfl

/-- Settles O6: behind the code every byte list is the one row `reservedF`, whose meaning is the identity and which is
no `Operation`. -/
theorem reservedCodeHasNoEffect : Obligations.ReservedCodeHasNoEffect := by
  refine ⟨fun _ => rfl, fun s bytes rest h => ?_, fun ⟨i, hi⟩ bytes => ⟨fun h => ?_, fun h => ?_⟩, fun i hi => ?_⟩
  · exact Machine.step_of_decode_ok h (decodeRequest_reservedF bytes)
  · rw [decodeRequest_reservedF] at h
    cases h
    cases hi
  · have hcode : i.opCode = some 0xF := opCode_of_encode_command h
    simp [Instr.namesOperation, hcode] at hi
  · exact ⟨⟨i, namesOperation_iff.mpr hi⟩, rfl⟩

end Sys2Proof
end

section
/-! SUPPORT. The two frame formats at the level of their bytes: the range of the checksum, and the bytes a parity
channel lies in (30_encoding.md R103 to R111). -/

namespace Sys2Proof

/-! ### The checksum -/

theorem byteSum_le (l : List Byte) : byteSum l ≤ 255 * l.length := by
  induction l with
  | nil => exact le_rfl
  | cons b l ih =>
    have := b.isLt
    simp only [byteSum, List.length_cons]
    omega

/-- The remainder in R103's formula does nothing while the sum fits into 16 bits. -/
theorem computedChecksum_eq_sub {w : List Byte} (h : byteSum (w.take 30) ≤ 0xFFFF) :
    computedChecksum w = 0xFFFF - byteSum (w.take 30) := by
  rw [computedChecksum]
  omega

theorem validWindow_interval_eq_false {w : List Byte} :
    Machine.validWindow .interval w = false ↔ computedChecksum w ≠ storedChecksum w := by
  simp [Machine.validWindow]

/-- Settles O29: the header adds 96 to the sum and the other twenty-eight bytes at most 255 each; the rest is
R103's formula. -/
theorem checksumLiesInItsRange : Obligations.ChecksumLiesInItsRange := by
  rintro d _ hd rfl
  have hsum : byteSum ((0x20 :: 0x40 :: d).take 30) = 96 + byteSum (d.take 28) := by
    simp [byteSum]
    omega
  have hle : byteSum (d.take 28) ≤ 7140 := by
    simpa [hd] using byteSum_le (d.take 28)
  have hck := computedChecksum_eq_sub (w := 0x20 :: 0x40 :: d) (by omega)
  rw [validWindow_interval_eq_false]
  refine ⟨?_, ?_, hck, ?_, ?_, ?_⟩ <;> omega

/-! ### The bytes of a parity channel -/

/-- A little-endian number shifted down by whole bytes is the number of the bytes left (R72). -/
theorem leNat_shiftRight_bytes (q : Nat) : ∀ l, leNat l >>> (8 * q) = leNat (l.drop q) := by
  induction q with
  | zero => intro l; simp
  | succ q ih =>
    rintro (_ | ⟨b, l⟩)
    · simp [leNat]
    · have hshift : leNat (b :: l) >>> 8 = leNat l := by
        have := b.isLt
        rw [Nat.shiftRight_eq_div_pow, leNat]
        omega
      rw [Nat.mul_succ, Nat.add_comm, Nat.shiftRight_add, hshift, ih, List.drop_succ_cons]

theorem leNat_eq_three_bytes : ∀ l, leNat l = (byteAt l 0).toNat + 256 * (byteAt l 1).toNat +
    65536 * (byteAt l 2).toNat + 2 ^ 24 * leNat (l.drop 3)
  | [] => rfl
  | [_] => by simp [leNat, byteAt]
  | [_, _] => by simp [leNat, byteAt]
  | _ :: _ :: _ :: _ => by simp [leNat, byteAt]; omega

theorem byteAt_drop (l : List Byte) (q i : Nat) : byteAt (l.drop q) i = byteAt l (q + i) := by
  simp [byteAt, List.getD_eq_getElem?_getD]

theorem byteAt_slice (w : List Byte) (a n i : Nat) :
    byteAt (slice w a n) i = if i < n then byteAt w (a + i) else 0 := by
  unfold byteAt slice
  split <;> simp [*, List.getD_eq_getElem?_getD]

/-- Bits 24 and up do not reach an 11-bit field that begins in one of the bits 0 to 7. -/
theorem field_add_high {r : Nat} (hr : r < 8) (x y : Nat) : ((x + 2 ^ 24 * y) >>> r) % 2048 = (x >>> r) % 2048 := by
  simp only [Nat.shiftRight_eq_div_pow]
  interval_cases r <;> omega

/-- Eleven bits at any bit offset of a little-endian number lie in three of its bytes. -/
theorem leNat_field (l : List Byte) (n : Nat) :
    (leNat l >>> n) % 2048 =
      (((byteAt l (n / 8)).toNat + 256 * (byteAt l (n / 8 + 1)).toNat + 65536 * (byteAt l (n / 8 + 2)).toNat)
        >>> (n % 8)) % 2048 := by
  have hsplit : leNat l >>> n = leNat (l.drop (n / 8)) >>> (n % 8) := by
    rw [← leNat_shiftRight_bytes, ← Nat.shiftRight_add, Nat.div_add_mod]
  rw [hsplit, leNat_eq_three_bytes, field_add_high (Nat.mod_lt n (by norm_num)), byteAt_drop, byteAt_drop, byteAt_drop,
    Nat.add_zero]

theorem parityChan_eq_field (w : List Byte) (k : Nat) :
    parityChan w k = (leNat (slice w 1 22) >>> (11 * (k - 1))) % 2048 := by
  rw [parityChan, memRead, show (0x7FF : Nat) = 2 ^ 11 - 1 from rfl, Nat.and_two_pow_sub_one_eq_mod]

/-- Settles O28: a channel is an 11-bit field of the 22 data bytes. Its first two bytes are always data bytes, and the
third is read as 0 where it would be byte 22 of them. -/
theorem parityChannelFromItsBytes : Obligations.ParityChannelFromItsBytes := by
  intro w k _ hk1 hk16
  have hfirst : 11 * (k - 1) / 8 < 22 := by omega
  have hsecond : 11 * (k - 1) / 8 + 1 < 22 := by omega
  have hthird : (byteAt (slice w 1 22) (11 * (k - 1) / 8 + 2)).toNat =
      if 11 * (k - 1) / 8 + 2 ≤ 21 then (byteAt w (1 + (11 * (k - 1) / 8 + 2))).toNat else 0 := by
    rw [byteAt_slice, apply_ite BitVec.toNat]
    exact if_congr Nat.lt_succ_iff rfl rfl
  rw [parityChan_eq_field, leNat_field, hthird, byteAt_slice, byteAt_slice, if_pos hfirst, if_pos hsecond]

end Sys2Proof
end

section
/-! SUPPORT. One whole window fed to an empty buffer: accepted or rejected by its check, for both variants
(40_frame_decoder.md R144 to R149), and what the frames of 30_encoding.md give there. -/

namespace Sys2Proof.Machine

/-! ### A whole window fed to an empty buffer -/

section

variable {v : Variant} {s : State} {w : List Byte}

/-- Everything the bytes of one window do to an empty buffer. All but the last only collect, and the last completes the
window. -/
theorem feedBytes_window (hv : s.cfg.variant = v) (hc : (frameLen v : Int) ≤ s.cfg.par.bufCap) (hb : s.buf = [])
    (hl : w.length = frameLen v) (hm : startMismatch v w = false) :
    feedBytes w s = if validWindow v w then
      { s with
        lastGood := some (decodeWindow v w)
        outputs := s.outputs ++ [.frame (decodeWindow v w)] }
    else
      { s with
        buf := skipTo v (w.drop 1)
        outputs := s.outputs ++ [.fdReject (rejectCause v)]
        errors := s.errors ++ [.frameError (rejectCause v)] } := by
  subst hv
  rcases List.eq_nil_or_concat w with rfl | ⟨init, last, rfl⟩
  · cases h : s.cfg.variant <;> simp [h, frameLen] at hl
  rw [List.concat_eq_append] at hl hm ⊢
  have hlen : (init ++ [last]).length = init.length + 1 := by simp
  have hinit : startMismatch s.cfg.variant init = false := startMismatch_of_append hm
  have hwait : feedBytes init s = { s with buf := init } := by
    have h := feedBytes_wait init s hc
    rw [hb, List.nil_append] at h
    exact h hinit (by omega)
  have hnormal : BufNormal s.cfg.variant init := ⟨hinit, by omega⟩
  rw [feedBytes_append, hwait, feedBytes_cons, feedBytes_nil, feedByte]
  rcases feedScan_cases (s := { s with buf := init }) last hnormal hc with ⟨h, -⟩ | ⟨-, hvalid, h⟩ | ⟨-, hvalid, h⟩
  · exact absurd hl h.ne
  · rw [h, if_pos hvalid, applyScan]
    simp [hb]
  · rw [h, if_neg (by simp [hvalid]), applyScan]

/-- A window that fails its check gives one strobe and one error, and the buffer goes on from the longest suffix of its
other bytes at which a frame may start (R148, R149). -/
theorem feedBytes_invalid_window (hv : s.cfg.variant = v) (hc : (frameLen v : Int) ≤ s.cfg.par.bufCap)
    (hb : s.buf = []) (hl : w.length = frameLen v) (hm : startMismatch v w = false)
    (hvalid : validWindow v w = false) :
    ∃ rest, rest <:+ w.drop 1 ∧ startMismatch v rest = false ∧
      (∀ r, r <:+ w.drop 1 → startMismatch v r = false → r.length ≤ rest.length) ∧
      feedBytes w s = { s with
        buf := rest
        outputs := s.outputs ++ [.fdReject (rejectCause v)]
        errors := s.errors ++ [.frameError (rejectCause v)] } :=
  ⟨skipTo v (w.drop 1), skipTo_suffix v _, startMismatch_skipTo v _, skipTo_longest v _,
    (feedBytes_window hv hc hb hl hm).trans (if_neg (by simp [hvalid]))⟩

end

/-! ### The operations that feed a window -/

theorem exec_iframe (ch : Vector U16 14) (ck : U16) (s : State) :
    exec (.iframe ch ck) s = .next (feedBytes (iframeBytes ch ck) s) := rfl

theorem exec_pframe (ch : Vector U11 16) (b23 : Byte) (s : State) :
    exec (.pframe ch b23) s = .next (feedBytes (pframeBytes ch b23) s) := rfl

/-! ### Interval packets -/

theorem startMismatch_iframeBytes (ch : Vector U16 14) (ck : U16) :
    startMismatch .interval (iframeBytes ch ck) = false := by
  simp [startMismatch, startPattern, iframeBytes, iframeBody]

/-- A packet is valid exactly when it carries the checksum of R103. -/
theorem validWindow_iframeBytes_iff (ch : Vector U16 14) (ck : U16) :
    validWindow .interval (iframeBytes ch ck) = true ↔
      ck.toNat = 65535 - (0x20 + 0x40 + (ch.toList.map fun c => c.toNat % 256 + c.toNat / 256).sum) := by
  rw [validWindow, computedChecksum_iframeBytes, storedChecksum_iframeBytes, beq_iff_eq, eq_comm]

theorem decodeWindow_iframeBytes (ch : Vector U16 14) (ck : U16) : decodeWindow .interval (iframeBytes ch ck) =
    Vector.ofFn fun i => if h : i.val < 14 then some ch[i.val] else none := by
  ext1 k hk
  by_cases h : k < 14
  · simp [decodeWindow, intervalChannels, h, intervalChan_iframeBytes ch ck k h]
  · simp [decodeWindow, intervalChannels, h]

/-- Settles O25: the packet is a whole valid window, and decodes to the channels it was made of. -/
theorem everyValidPacketIsDecoded : Obligations.EveryValidPacketIsDecoded := by
  intro ch ck s hv hc hb hck
  have hvalid := (validWindow_iframeBytes_iff ch ck).mpr hck
  rw [exec_iframe, feedBytes_window hv hc hb (iframeBytes_length ch ck) (startMismatch_iframeBytes ch ck),
    if_pos hvalid, decodeWindow_iframeBytes]

/-! ### Parity frames -/

theorem startMismatch_parity_start (r : List Byte) : startMismatch .parity (0x0F :: r) = false := by
  simp [startMismatch, startPattern]

theorem validWindow_pframeBytes (ch : Vector U11 16) (b23 : Byte) :
    validWindow .parity (pframeBytes ch b23) = true := rfl

theorem decodeWindow_pframeBytes (ch : Vector U11 16) (b23 : Byte) : decodeWindow .parity (pframeBytes ch b23) =
    Vector.ofFn fun i => some (BitVec.ofNat 16 ch[i.val].toNat) := by
  ext1 k hk
  simp [decodeWindow, parityChannels, parityChan_pframeBytes ch b23 k hk]

/-- Settles O27: the check looks at the end byte alone (R109), so byte 23 does not matter. -/
theorem everyParityFrameIsDecoded : Obligations.EveryParityFrameIsDecoded := by
  intro ch b23 s hv hc hb
  rw [exec_pframe, feedBytes_window hv hc hb (pframeBytes_length ch b23) (startMismatch_parity_start _),
    if_pos (validWindow_pframeBytes ch b23), decodeWindow_pframeBytes]

/-! ### Rejected frames -/

/-- The check of a parity window is on the byte behind its first twenty-four (R109). -/
theorem validWindow_parity_eq_false {d : List Byte} {e : Byte} (hd : d.length = 23) (he : e ≠ 0x00) :
    validWindow .parity (0x0F :: d ++ [e]) = false := by
  have hlast : byteAt (0x0F :: d ++ [e]) 24 = e := by
    simp [byteAt, List.getD_eq_getElem?_getD, hd]
  rw [validWindow, hlast]
  exact beq_false_of_ne he

/-- Settles O26: both are whole windows that show the start pattern and fail their check. -/
theorem everyWrongChecksumIsRejected : Obligations.EveryWrongChecksumIsRejected := by
  constructor
  · intro ch ck s hv hc hb hck
    have hvalid : validWindow .interval (iframeBytes ch ck) = false :=
      Bool.eq_false_iff.mpr (mt (validWindow_iframeBytes_iff ch ck).mp hck)
    obtain ⟨rest, hsuffix, hstart, hlongest, hrun⟩ := feedBytes_invalid_window hv hc hb (iframeBytes_length ch ck)
      (startMismatch_iframeBytes ch ck) hvalid
    exact ⟨rest, hsuffix, hstart, hlongest, congrArg Host.Outcome.next hrun⟩
  · intro d e s hv hc hb hd he
    obtain ⟨rest, hsuffix, hstart, hlongest, hrun⟩ := feedBytes_invalid_window hv hc hb
      (w := 0x0F :: d ++ [e]) (by simp [hd, frameLen]) (startMismatch_parity_start _)
      (validWindow_parity_eq_false hd he)
    exact ⟨rest, hsuffix, hstart, hlongest, congrArg Host.Outcome.next hrun⟩

end Sys2Proof.Machine
end

section
/-! SUPPORT. The feeding operations: what one `FD_FEED` makes of a buffer in normal form, as one record update
(40_frame_decoder.md R146 to R151), and every other feeding operation as a burst of bytes (R152, 30_encoding.md
R131). -/

namespace Sys2Proof.Machine

/-! ### The start pattern and the normal form (R143, R150) -/

theorem startMismatch_interval_iff (buf : List Byte) : startMismatch .interval buf = true ↔
    (∃ x, buf[0]? = some x ∧ x ≠ 0x20) ∨ ∃ x, buf[1]? = some x ∧ x ≠ 0x40 := by
  rcases buf with _ | ⟨x, _ | ⟨y, buf⟩⟩ <;> simp [startMismatch, startPattern]

theorem startMismatch_parity_iff (buf : List Byte) : startMismatch .parity buf = true ↔
    ∃ x, buf[0]? = some x ∧ x ≠ 0x0F := by
  rcases buf with _ | ⟨x, buf⟩ <;> simp [startMismatch, startPattern]

theorem bufNormal_interval_iff (buf : List Byte) : BufNormal .interval buf ↔
    buf = [] ∨ buf = [0x20] ∨ ∃ r, buf = 0x20 :: 0x40 :: r ∧ buf.length ≤ 31 := by
  rw [BufNormal, ← Bool.not_eq_true, startMismatch_interval_iff]
  rcases buf with _ | ⟨x, _ | ⟨y, buf⟩⟩
  · simp [frameLen]
  · simp [frameLen]
  · simp [frameLen, and_assoc, Nat.lt_succ_iff]

theorem bufNormal_parity_iff (buf : List Byte) : BufNormal .parity buf ↔
    buf = [] ∨ ∃ r, buf = 0x0F :: r ∧ buf.length ≤ 24 := by
  rw [BufNormal, ← Bool.not_eq_true, startMismatch_parity_iff]
  rcases buf with _ | ⟨x, buf⟩
  · simp [frameLen]
  · simp [frameLen, Nat.lt_succ_iff]

theorem two_lt_frameLen (v : Variant) : 2 < frameLen v := by
  cases v <;> decide

/-- The byte that completes a window changes nothing about its start. -/
theorem startMismatch_of_window {v : Variant} {buf : List Byte} {b : Byte} (hn : BufNormal v buf)
    (hl : (buf ++ [b]).length = frameLen v) : startMismatch v (buf ++ [b]) = false := by
  have hlen : (buf ++ [b]).length = buf.length + 1 := by simp
  have h2 := two_lt_frameLen v
  exact (startMismatch_append (by omega) [b]).trans hn.1

/-! ### One byte -/

theorem exec_fdFeed (b : Byte) (s : State) : exec (.fdFeed b) s = .next (feedByte b s) := rfl

theorem exec_fdFeedBurst (bs : List Byte) (s : State) : exec (.fdFeedBurst bs) s = .next (feedBytes bs s) := rfl

section

variable {s : State} (b : Byte) (hn : BufNormal s.cfg.variant s.buf)
  (hc : (frameLen s.cfg.variant : Int) ≤ s.cfg.par.bufCap)

include hn hc

/-- Everything one `FD_FEED` does to a buffer in normal form: wait (S1, S2), accept (S3), or reject (S4). -/
theorem feedByte_eq : feedByte b s =
    if (s.buf ++ [b]).length < frameLen s.cfg.variant then { s with buf := skipTo s.cfg.variant (s.buf ++ [b]) }
    else if validWindow s.cfg.variant (s.buf ++ [b]) then
      { s with
        buf := []
        lastGood := some (decodeWindow s.cfg.variant (s.buf ++ [b]))
        outputs := s.outputs ++ [.frame (decodeWindow s.cfg.variant (s.buf ++ [b]))] }
    else
      { s with
        buf := skipTo s.cfg.variant ((s.buf ++ [b]).drop 1)
        outputs := s.outputs ++ [.fdReject (rejectCause s.cfg.variant)]
        errors := s.errors ++ [.frameError (rejectCause s.cfg.variant)] } := by
  rcases feedScan_cases b hn hc with ⟨hl, h⟩ | ⟨hl, hv, h⟩ | ⟨hl, hv, h⟩
  · rw [if_pos hl, feedByte, h, applyScan, List.append_nil, List.append_nil]
  · rw [if_neg hl.not_lt, if_pos hv, feedByte, h, applyScan, List.append_nil]
  · rw [if_neg hl.not_lt, if_neg (Bool.eq_false_iff.mp hv), feedByte, h, applyScan]

/-- At most one output per byte (R151). -/
theorem feedScan_outs_length_le : (feedScan b s).outs.length ≤ 1 := by
  rcases feedScan_cases b hn hc with ⟨-, h⟩ | ⟨-, -, h⟩ | ⟨-, -, h⟩ <;> rw [h]
  · exact Nat.zero_le 1
  · exact le_rfl
  · exact le_rfl

end

/-- Settles O17: the accepting case of `feedByte_eq`. -/
theorem completedValidWindowIsAFrame : Obligations.CompletedValidWindowIsAFrame := by
  intro s b hn hc hl hvalid
  rw [exec_fdFeed, feedByte_eq b hn hc, if_neg hl.not_lt, if_pos hvalid]

/-- Settles O18: the rejecting case of `feedByte_eq`; the rest of the buffer is where the scan for a start stops. -/
theorem completedInvalidWindowIsRejected : Obligations.CompletedInvalidWindowIsRejected := by
  intro s b hn hc hl hvalid
  refine ⟨skipTo s.cfg.variant ((s.buf ++ [b]).drop 1), rejectCause s.cfg.variant, ?_, skipTo_suffix _ _,
    startMismatch_skipTo _ _, skipTo_longest _ _, ?_⟩
  · cases s.cfg.variant <;> rfl
  · rw [exec_fdFeed, feedByte_eq b hn hc, if_neg hl.not_lt, if_neg (Bool.eq_false_iff.mp hvalid)]

/-- Settles O19: the waiting case of `feedByte_eq`. -/
theorem incompleteWindowWaits : Obligations.IncompleteWindowWaits := by
  intro s b hn hc hl
  refine ⟨skipTo s.cfg.variant (s.buf ++ [b]), skipTo_suffix _ _, startMismatch_skipTo _ _, skipTo_longest _ _, ?_⟩
  rw [exec_fdFeed, feedByte_eq b hn hc, if_pos hl]

/-- Settles O20: the patterns by their bytes, then R150's normal form and R151's bound for one byte. -/
theorem oneByteGivesAtMostOneOutput : Obligations.OneByteGivesAtMostOneOutput :=
  ⟨startMismatch_interval_iff, startMismatch_parity_iff, bufNormal_interval_iff, bufNormal_parity_iff,
    fun s b hn hc => ⟨feedByte b s, (feedScan b s).outs, exec_fdFeed b s, feedByte_bufNormal b hn hc,
      applyScan_outputs _ _, feedScan_outs_length_le b hn hc⟩⟩

/-! ### Bursts and frames -/

/-- A packet byte by byte: the header, then each channel and the checksum low byte first (30_encoding.md R101). -/
theorem iframeBytes_eq (ch : Vector U16 14) (ck : U16) : iframeBytes ch ck =
    [0x20, 0x40] ++ ch.toList.flatMap (fun c => [BitVec.ofNat 8 c.toNat, BitVec.ofNat 8 (c.toNat / 256)]) ++
      [BitVec.ofNat 8 ck.toNat, BitVec.ofNat 8 (ck.toNat / 256)] := rfl

/-- The twenty-two data bytes of a parity frame hold channel `k + 1` at bit `11 k` (30_encoding.md R110). -/
theorem leNat_packed_field (ch : Vector U11 16) (k : Nat) (h : k < 16) :
    (leNat (leBytes 22 (packChannels ch.toList)) >>> (11 * k)) % 2048 = ch[k].toNat := by
  have hlt : packChannels ch.toList < 256 ^ 22 := by simpa using packChannels_lt ch.toList
  rw [leNat_leBytes, Nat.mod_eq_of_lt hlt]
  exact packChannels_field ch.toList k (by simpa using h)

/-- Settles O22: a burst is a fold over its bytes, and the frames feed the bytes they are made of. -/
theorem burstIsTheSequenceOfItsBytes : Obligations.BurstIsTheSequenceOfItsBytes := by
  refine ⟨fun s => ?_, ?_, fun ch ck s => ?_, fun ch b23 s => ?_⟩
  · rw [exec_fdFeedBurst, feedBytes_nil]
  · rintro b bs s _ ⟨⟩
    rw [exec_fdFeedBurst, feedBytes_cons, exec_fdFeedBurst]
  · rw [exec_iframe, iframeBytes_eq, exec_fdFeedBurst]
  · refine ⟨leBytes 22 (packChannels ch.toList), leBytes_length _ _, leNat_packed_field ch, ?_⟩
    rw [exec_pframe, pframeBytes, exec_fdFeedBurst]

/-- Each of the four feeding operations is a burst of some bytes. -/
theorem exec_feeding {i : Instr} (s : State)
    (hi : (∃ b, i = .fdFeed b) ∨ (∃ bs, i = .fdFeedBurst bs) ∨ (∃ ch ck, i = .iframe ch ck) ∨
      ∃ ch b23, i = .pframe ch b23) :
    ∃ bs, exec i s = .next (feedBytes bs s) := by
  obtain ⟨b, rfl⟩ | ⟨bs, rfl⟩ | ⟨ch, ck, rfl⟩ | ⟨ch, b23, rfl⟩ := hi
  · exact ⟨[b], rfl⟩
  · exact ⟨bs, rfl⟩
  · exact ⟨_, exec_iframe ch ck s⟩
  · exact ⟨_, exec_pframe ch b23 s⟩

/-- Settles O21: each of the four is a burst, and a burst has the frame of `feedBytes_frame`. -/
theorem feedingTouchesOnlyTheDecoder : Obligations.FeedingTouchesOnlyTheDecoder := by
  intro i s hi
  obtain ⟨bs, hexec⟩ := exec_feeding s hi
  exact ⟨_, hexec, feedBytes_frame bs s⟩

/-- Settles O23: a burst is a fold over its bytes. -/
theorem chunksDoNotMatter : Obligations.ChunksDoNotMatter := fun a b s =>
  ⟨feedBytes a s, exec_fdFeedBurst a s, congrArg Host.Outcome.next (feedBytes_append a b s)⟩

end Sys2Proof.Machine
end

section
/-! SUPPORT. The whole-stream reading of R153 by its own four cases, without its bound on the steps, and one `FD_FEED`
as one stretch of it. -/

namespace Sys2Proof.Machine

/-! ### The reading, one step at a time -/

/-- The reading does not depend on the bound of its steps, once that is above the number of bytes. -/
theorem streamScan_eq_of_length_lt (v : Variant) (n : Nat) : ∀ m l, l.length < n → l.length < m →
    streamScan v n l = streamScan v m l := by
  induction n with
  | zero => intro m l hn; omega
  | succ n ih =>
    rintro (_ | m) l hn hm
    · omega
    · rcases l with _ | ⟨b, l⟩
      · cases v <;> rfl
      · rw [List.length_cons] at hn hm
        have hwindow : ((b :: l).drop (frameLen v)).length ≤ l.length := by
          have h2 := two_lt_frameLen v
          rw [List.length_drop, List.length_cons]
          omega
        have hnext := ih m l (by omega) (by omega)
        have hjump := ih m ((b :: l).drop (frameLen v)) (by omega) (by omega)
        simp only [streamScan, List.drop_succ_cons, List.drop_zero, hnext, hjump]

/-- R153's reading of a byte stream: the frames recorded and the bytes left where it stops. -/
def streamReading (v : Variant) (bs : List Byte) : List ChannelSet × List Byte := streamScan v (bs.length + 1) bs

section

variable {v : Variant}

theorem streamScan_eq_streamReading {n : Nat} {l : List Byte} (h : l.length < n) :
    streamScan v n l = streamReading v l :=
  streamScan_eq_of_length_lt v n _ l h (Nat.lt_succ_self _)

theorem streamReading_of_mismatch {b : Byte} {l : List Byte} (h : startMismatch v (b :: l) = true) :
    streamReading v (b :: l) = streamReading v l := by
  rw [streamReading, streamScan, if_pos h]
  exact streamScan_eq_streamReading (Nat.lt_succ_self _)

theorem streamReading_of_bufNormal {l : List Byte} (h : BufNormal v l) : streamReading v l = ([], l) := by
  obtain ⟨hstart, hlen⟩ := h
  rw [streamReading, streamScan, if_neg (Bool.eq_false_iff.mp hstart), if_pos hlen]

/-- At a whole window the reading records a frame and jumps behind it, or goes on at the next byte. -/
theorem streamReading_window {w : List Byte} (r : List Byte) (hl : w.length = frameLen v)
    (hm : startMismatch v w = false) : streamReading v (w ++ r) =
      if validWindow v w then (decodeWindow v w :: (streamReading v r).1, (streamReading v r).2)
      else streamReading v (w.drop 1 ++ r) := by
  have h2 := two_lt_frameLen v
  have hstart : startMismatch v (w ++ r) = false := (startMismatch_append (by omega) r).trans hm
  have hlen : ¬ (w ++ r).length < frameLen v := by rw [List.length_append]; omega
  have hdrop : (w ++ r).drop 1 = w.drop 1 ++ r := List.drop_append_of_le_length (by omega)
  rw [streamReading, streamScan, if_neg (Bool.eq_false_iff.mp hstart), if_neg hlen, ← hl, List.take_left,
    List.drop_left, hdrop, streamScan_eq_streamReading (l := r) (by rw [List.length_append]; omega),
    streamScan_eq_streamReading (by simp only [List.length_append, List.length_drop]; omega)]

/-- Bytes the decoder drops because no frame starts at them, the reading passes over, whatever comes behind. -/
theorem streamReading_skipTo_append (l r : List Byte) :
    streamReading v (skipTo v l ++ r) = streamReading v (l ++ r) := by
  induction l with
  | nil => rfl
  | cons b l ih =>
    rw [skipTo]
    split
    next h =>
      have hmore : startMismatch v (b :: (l ++ r)) = true := by
        by_contra hfalse
        rw [startMismatch_of_append (b := r) (by simpa using hfalse)] at h
        cases h
      rw [ih, List.cons_append, streamReading_of_mismatch hmore]
    next => rfl

end

/-! ### Feeding is the reading -/

theorem framesOf_append (os os' : List Output) : framesOf (os ++ os') = framesOf os ++ framesOf os' :=
  List.filterMap_append

/-- One `FD_FEED` takes the reading from the buffer with the stream behind it to the next buffer with the rest of the
stream, and puts out the frames recorded on the way. -/
theorem streamReading_feedScan {s : State} (b : Byte) (bs : List Byte) (hn : BufNormal s.cfg.variant s.buf)
    (hc : (frameLen s.cfg.variant : Int) ≤ s.cfg.par.bufCap) :
    streamReading s.cfg.variant (s.buf ++ b :: bs) =
      (framesOf (feedScan b s).outs ++ (streamReading s.cfg.variant ((feedScan b s).buf ++ bs)).1,
        (streamReading s.cfg.variant ((feedScan b s).buf ++ bs)).2) := by
  rw [List.append_cons]
  rcases feedScan_cases b hn hc with ⟨-, h⟩ | ⟨hl, hvalid, h⟩ | ⟨hl, hvalid, h⟩ <;> rw [h]
  · rw [streamReading_skipTo_append]
    rfl
  · rw [streamReading_window bs hl (startMismatch_of_window hn hl), if_pos hvalid]
    rfl
  · rw [streamReading_window bs hl (startMismatch_of_window hn hl), if_neg (Bool.eq_false_iff.mp hvalid),
      streamReading_skipTo_append]
    rfl

/-- A burst from any buffer in normal form reads that buffer with the bytes of the burst behind it. -/
theorem feedBytes_streamReading (bs : List Byte) : ∀ s : State, BufNormal s.cfg.variant s.buf →
    (frameLen s.cfg.variant : Int) ≤ s.cfg.par.bufCap →
    (feedBytes bs s).buf = (streamReading s.cfg.variant (s.buf ++ bs)).2 ∧
    framesOf (feedBytes bs s).outputs = framesOf s.outputs ++ (streamReading s.cfg.variant (s.buf ++ bs)).1 := by
  induction bs with
  | nil =>
    intro s hn _
    rw [List.append_nil, streamReading_of_bufNormal hn]
    exact ⟨rfl, (List.append_nil _).symm⟩
  | cons b bs ih =>
    intro s hn hc
    obtain ⟨hbuf, hframes⟩ := ih (feedByte b s) (feedByte_bufNormal b hn hc) hc
    rw [streamReading_feedScan b bs hn hc]
    refine ⟨hbuf, hframes.trans ?_⟩
    rw [feedByte, applyScan_outputs, framesOf_append, List.append_assoc]
    rfl

/-- Settles O24: the empty buffer is in normal form. -/
theorem feedingIsTheWholeStreamReading : Obligations.FeedingIsTheWholeStreamReading := by
  intro bs s hb hc
  have hn : BufNormal s.cfg.variant s.buf := hb ▸ bufNormal_nil _
  obtain ⟨hbuf, hframes⟩ := feedBytes_streamReading bs s hn hc
  rw [hb, List.nil_append] at hbuf hframes
  exact ⟨feedBytes bs s, exec_fdFeedBurst bs s, hbuf, hframes⟩

end Sys2Proof.Machine
end

section
/-! SUPPORT. The ChannelMapper, one rule per function of 41_channel_mapper.md: the normalised and the three-state reading
of a channel (R182, R183), the fields of the Intent (R185 to R190), and the roles out of band (R191). -/

namespace Sys2Proof.Machine

/-! ### The normalised channel (R182) -/

section

variable {p : MapperParams} {v : Int}

theorem normalizeChannel_of_inBand (h : inBand p v = true) :
    normalizeChannel p v = max (-1) (min (((v - p.center : Int) : Q) / (p.fullScale : Q)) 1) := by
  rw [normalizeChannel, if_pos h, clamp_eq_max_min (by norm_num)]

theorem normalizeChannel_of_not_inBand (h : ¬ inBand p v = true) : normalizeChannel p v = 0 := if_neg h

/-- The default configuration's scale reaches both ends of its band, so nothing in band is clamped. -/
theorem normalizeChannel_default (hlo : 1000 ≤ v) (hhi : v ≤ 2000) :
    normalizeChannel .default v = ((v : Q) - 1500) / 500 := by
  have h1 : (1000 : Q) ≤ (v : Q) := by exact_mod_cast hlo
  have h2 : (v : Q) ≤ 2000 := by exact_mod_cast hhi
  have hx : ((v - MapperParams.default.center : Int) : Q) / (MapperParams.default.fullScale : Q) =
      ((v : Q) - 1500) / 500 := by
    norm_num [MapperParams.default]
  rw [normalizeChannel_of_inBand (inBand_iff.mpr ⟨hlo, hhi⟩), hx, min_eq_left (by linarith), max_eq_right (by linarith)]

/-- Settles O30: in band the clamp as a maximum of a minimum, and under the defaults a clamp that does nothing. -/
theorem normalizeEndsAndNeutral : Obligations.NormalizeEndsAndNeutral := by
  have hout : ∀ (p : MapperParams) (v : Int), v < p.saneLo ∨ p.saneHi < v → normalizeChannel p v = 0 := fun p v h =>
    normalizeChannel_of_not_inBand (by rw [inBand_iff]; omega)
  refine ⟨fun p v x _ hx => ⟨hout p v, fun hlo hhi => ?_⟩, ?_, ?_, ?_, fun v => normalizeChannel_default,
    normalize_bounds .default, hout .default⟩
  · rw [normalizeChannel_of_inBand (inBand_iff.mpr ⟨hlo, hhi⟩), Int.cast_sub, hx]
  · rw [normalizeChannel_default] <;> norm_num
  · rw [normalizeChannel_default] <;> norm_num
  · rw [normalizeChannel_default] <;> norm_num

/-! ### The three-state reading (R183) -/

theorem tri_eq_positive_iff :
    tri p v = .positive ↔ inBand p v = true ∧ p.deadzone < v - p.center := by
  rw [show tri p v = readingTri p (some v) from rfl, readingTri_eq_positive, inBand_iff]
  simp [and_assoc]

/-- A deadzone below 0 would let one reading lie on both sides of the centre, and the positive side would win. -/
theorem tri_eq_negative_iff (hd : 0 ≤ p.deadzone) :
    tri p v = .negative ↔ inBand p v = true ∧ v - p.center < -p.deadzone := by
  unfold tri
  by_cases hb : inBand p v = true
  · simp only [hb, Bool.not_true, Bool.false_eq_true, if_false, true_and]
    split_ifs with hpos hneg
    · exact iff_of_false (by decide) (by omega)
    · simp [hneg]
    · simp [hneg]
  · simp [hb]

/-- A threshold inside [-1, 1] does not see the clamp. -/
theorem lt_max_min_unit_iff {x d : Q} (hlo : -1 ≤ d) (hhi : d < 1) : d < max (-1) (min x 1) ↔ d < x := by
  simp [hhi, not_lt.mpr hlo]

theorem max_min_unit_lt_iff {x d : Q} (hlo : -1 < d) (hhi : d ≤ 1) : max (-1) (min x 1) < d ↔ x < d := by
  simp [hlo, not_lt.mpr hhi]

/-- Settles O31: in band the scale cancels and the clamp does not reach the threshold; out of band the reading is
neutral and `normalize` is 0. -/
theorem triIsTheNormalizedComparison : Obligations.TriIsTheNormalizedComparison := by
  intro p v hf hd hdf
  have hF : (0 : Q) < (p.fullScale : Q) := by exact_mod_cast hf
  have hD0 : (0 : Q) ≤ (p.deadzone : Q) / (p.fullScale : Q) := div_nonneg (by exact_mod_cast hd) hF.le
  have hD1 : (p.deadzone : Q) / (p.fullScale : Q) < 1 := (div_lt_one hF).mpr (by exact_mod_cast hdf)
  rw [tri_eq_positive_iff, tri_eq_negative_iff hd]
  by_cases hb : inBand p v = true
  · rw [normalizeChannel_of_inBand hb, lt_max_min_unit_iff (by linarith) hD1,
      max_min_unit_lt_iff (by linarith) (by linarith), ← neg_div, div_lt_div_iff_of_pos_right hF,
      div_lt_div_iff_of_pos_right hF]
    simp only [hb, true_and]
    exact ⟨by norm_cast, by norm_cast⟩
  · rw [normalizeChannel_of_not_inBand hb]
    exact ⟨iff_of_false (fun ⟨h, _⟩ => hb h) hD0.not_gt, iff_of_false (fun ⟨h, _⟩ => hb h) (by linarith)⟩

end

/-! ### The fields of the Intent (R185 to R189) -/

section

variable {p : MapperParams} {cs : ChannelSet}

theorem throttleOf_of_none (h : raw cs p.chThrottle = none) : throttleOf p cs = 0 := by
  simp [throttleOf, h]

theorem throttleOf_of_some {v : Int} (h : raw cs p.chThrottle = some v) :
    throttleOf p cs = if tri p v = .neutral then 0 else 100 * |normalizeChannel p v| := by
  simp [throttleOf, h]

theorem directionOf_of_neutral (h : readingTri p (raw cs p.chDir) = .neutral) : directionOf p cs = .idle := by
  cases hi : p.dirInvert <;> simp [directionOf, invertTri, h, hi]

theorem directionOf_of_positive (h : readingTri p (raw cs p.chDir) = .positive) :
    directionOf p cs = if p.dirInvert then .reverse else .forward := by
  cases hi : p.dirInvert <;> simp [directionOf, invertTri, h, hi]

theorem directionOf_of_negative (h : readingTri p (raw cs p.chDir) = .negative) :
    directionOf p cs = if p.dirInvert then .forward else .reverse := by
  cases hi : p.dirInvert <;> simp [directionOf, invertTri, h, hi]

theorem intentBrake_iff {cfg : Cfg} : intentBrake cfg cs = true ↔
    ∃ v, raw cs cfg.par.mapper.chBrake = some v ∧ cfg.par.mapper.saneLo ≤ v ∧ v ≤ cfg.par.mapper.saneHi ∧
      v < cfg.par.motion.brakeLo := by
  cases h : raw cs cfg.par.mapper.chBrake with
  | none => simp [intentBrake, h]
  | some v => simp [intentBrake, h, inBand_iff, and_assoc]

theorem exec_cmMap (s : State) : exec (.cmMap cs) s = .next { s with result := some (.intent (cmMap s.cfg cs)) } := rfl

/-- Settles O32, field by field: the throttle by its channel, the direction and the turns by the three-state reading. -/
theorem mapReturnsTheIntent : Obligations.MapReturnsTheIntent := by
  intro cs s
  refine ⟨cmMap s.cfg cs, exec_cmMap s, ?throttle, ?direction, ?pivot, ?veer, intentBrake_iff, rfl,
    throttleOf_bounds s.cfg.par.mapper cs⟩
  case throttle =>
    cases h : raw cs s.cfg.par.mapper.chThrottle with
    | none => exact throttleOf_of_none h
    | some v => exact throttleOf_of_some h
  case direction =>
    cases h : readingTri s.cfg.par.mapper (raw cs s.cfg.par.mapper.chDir) with
    | neutral => exact directionOf_of_neutral h
    | positive => exact directionOf_of_positive h
    | negative => exact directionOf_of_negative h
  case pivot =>
    cases h : readingTri s.cfg.par.mapper (raw cs s.cfg.par.mapper.chPivot) with
    | neutral | positive | negative => exact congrArg turnOf h
  case veer =>
    cases h : readingTri s.cfg.par.mapper (raw cs s.cfg.par.mapper.chVeer) with
    | neutral | positive | negative => exact congrArg turnOf h

end

/-! ### The mode (R190) -/

/-- R190's choice in a mode table: entry `i` is within the tolerance, none is nearer, and none before it is as near. -/
def IsNearest (tol v : Int) (table : List (Int × Mode)) (i : Nat) (r : Int × Mode) : Prop :=
  table[i]? = some r ∧ ((v - r.1).natAbs : Int) ≤ tol ∧
    ∀ (j : Nat) (r' : Int × Mode), table[j]? = some r' →
      (v - r.1).natAbs < (v - r'.1).natAbs ∨ ((v - r.1).natAbs = (v - r'.1).natAbs ∧ i ≤ j)

section

variable {tol v : Int} {table : List (Int × Mode)} {e : Int × Mode}

/-- The first entry is the nearest when it is within the tolerance and no later one is nearer. -/
theorem isNearest_head (h : ((v - e.1).natAbs : Int) ≤ tol)
    (hle : ∀ r ∈ table, (v - e.1).natAbs ≤ (v - r.1).natAbs) : IsNearest tol v (e :: table) 0 e := by
  refine ⟨rfl, h, fun j r' hj => ?_⟩
  have hr' : (v - e.1).natAbs ≤ (v - r'.1).natAbs := by
    rcases List.mem_cons.mp (List.mem_of_getElem? hj) with rfl | hmem
    · exact le_rfl
    · exact hle r' hmem
  exact hr'.lt_or_eq.imp_right fun heq => ⟨heq, j.zero_le⟩

/-- The nearest of the later entries stays the nearest when the first one is further. -/
theorem IsNearest.cons {i : Nat} {r : Int × Mode} (h : IsNearest tol v table i r)
    (hlt : (v - r.1).natAbs < (v - e.1).natAbs) : IsNearest tol v (e :: table) (i + 1) r := by
  obtain ⟨hi, htol, hmin⟩ := h
  refine ⟨hi, htol, fun j r' hj => ?_⟩
  cases j with
  | zero =>
    obtain rfl : e = r' := Option.some.inj hj
    exact .inl hlt
  | succ j => exact (hmin j r' hj).imp_right fun ⟨heq, hij⟩ => ⟨heq, Nat.succ_le_succ hij⟩

/-- The nearest entry is at most as far as any other. -/
theorem IsNearest.natAbs_le {i : Nat} {r : Int × Mode} (h : IsNearest tol v table i r) :
    ∀ r' ∈ table, (v - r.1).natAbs ≤ (v - r'.1).natAbs := by
  intro r' hr'
  obtain ⟨j, hj⟩ := List.mem_iff_getElem?.mp hr'
  obtain ⟨-, -, hmin⟩ := h
  exact (hmin j r' hj).elim le_of_lt fun ⟨heq, _⟩ => heq.le

end

theorem nearestMode_cons_of_none {tol v : Int} {e : Int × Mode} {table : List (Int × Mode)}
    (h : nearestMode tol v table = none) : nearestMode tol v (e :: table) =
      if ((v - e.1).natAbs : Int) ≤ tol then some ((v - e.1).natAbs, e.2) else none := by
  simp [nearestMode, h]

theorem nearestMode_cons_of_some {tol v : Int} {e : Int × Mode} {table : List (Int × Mode)} {d : Nat} {mo : Mode}
    (h : nearestMode tol v table = some (d, mo)) : nearestMode tol v (e :: table) =
      if ((v - e.1).natAbs : Int) ≤ tol ∧ (v - e.1).natAbs ≤ d then some ((v - e.1).natAbs, e.2) else some (d, mo) := by
  simp [nearestMode, h]

/-- All `nearestMode` can answer: no entry within the tolerance, or the nearest one. -/
theorem nearestMode_cases (tol v : Int) (table : List (Int × Mode)) :
    (nearestMode tol v table = none ∧ ∀ r ∈ table, tol < ((v - r.1).natAbs : Int)) ∨
    ∃ i r, nearestMode tol v table = some ((v - r.1).natAbs, r.2) ∧ IsNearest tol v table i r := by
  induction table with
  | nil => exact .inl ⟨rfl, fun r hr => absurd hr List.not_mem_nil⟩
  | cons e table ih =>
    rcases ih with ⟨hnone, hfar⟩ | ⟨i, r, hsome, hr⟩
    · rw [nearestMode_cons_of_none hnone]
      split_ifs with he
      · refine .inr ⟨0, e, rfl, isNearest_head he fun r hr => ?_⟩
        have := hfar r hr
        omega
      · exact .inl ⟨rfl, List.forall_mem_cons.mpr ⟨not_le.mp he, hfar⟩⟩
    · rw [nearestMode_cons_of_some hsome]
      split_ifs with he
      · obtain ⟨hle, hd⟩ := he
        exact .inr ⟨0, e, rfl, isNearest_head hle fun r' hr' => hd.trans (hr.natAbs_le r' hr')⟩
      · have ⟨_, htol, _⟩ := hr
        exact .inr ⟨i + 1, r, rfl, hr.cons (by omega)⟩

theorem modeOf_of_none {p : MapperParams} {cs : ChannelSet} (h : raw cs p.chMode = none) : modeOf p cs = p.modeSafe := by
  simp [modeOf, h]

/-- All the mode can be when its channel is present: the safe mode with no entry within the tolerance, or the mode of the
nearest entry. -/
theorem modeOf_cases {p : MapperParams} {cs : ChannelSet} {v : Int} (h : raw cs p.chMode = some v) :
    ((∀ r ∈ p.modeTable, p.modeTol < ((v - r.1).natAbs : Int)) ∧ modeOf p cs = p.modeSafe) ∨
    ∃ i r, modeOf p cs = r.2 ∧ IsNearest p.modeTol v p.modeTable i r := by
  rcases nearestMode_cases p.modeTol v p.modeTable with ⟨hnone, hfar⟩ | ⟨i, r, hsome, hr⟩
  · exact .inl ⟨hfar, by simp [modeOf, h, hnone]⟩
  · exact .inr ⟨i, r, by simp [modeOf, h, hsome], hr⟩

/-- The tolerance bands of the default table are disjoint, so the entry within the tolerance decides the mode. -/
theorem modeOf_default {cs : ChannelSet} {v : Int} (h : raw cs 7 = some v) : modeOf MapperParams.default cs =
    if 980 ≤ v ∧ v ≤ 1020 then .normal else if 1980 ≤ v ∧ v ≤ 2020 then .verbose else .safe := by
  rcases modeOf_cases (p := .default) h with ⟨hfar, hm⟩ | ⟨i, r, hm, hi, htol, -⟩
  · simp only [MapperParams.default, List.forall_mem_cons] at hfar
    obtain ⟨hnormal, -, hverbose, -⟩ := hfar
    rw [hm, if_neg (by omega), if_neg (by omega)]
    rfl
  · have hmem := List.mem_of_getElem? hi
    simp only [MapperParams.default, List.mem_cons, List.not_mem_nil, or_false] at hmem htol
    rcases hmem with rfl | rfl | rfl
    · rw [hm, if_pos (by omega)]
    · rw [hm, if_neg (by omega), if_neg (by omega)]
    · rw [hm, if_neg (by omega), if_pos (by omega)]

/-- Settles O33: R190's choice is what `IsNearest` says. -/
theorem modeIsTheNearestMatch : Obligations.ModeIsTheNearestMatch := by
  refine ⟨fun p cs v h => ?_, fun p cs => modeOf_of_none, fun cs v => modeOf_default⟩
  rcases modeOf_cases h with hfar | ⟨i, r, hm, hi, htol, hmin⟩
  · exact .inl hfar
  · exact .inr ⟨i, r, hi, htol, hm, hmin⟩

/-! ### The roles out of band (R191) -/

/-- The channel of a role, as `rangeRoles` lists it (`mem_rangeRoles_iff`). -/
def roleChannel (p : MapperParams) : Role → Nat
  | .veer => p.chVeer
  | .dir => p.chDir
  | .throttle => p.chThrottle
  | .pivot => p.chPivot
  | .arm => p.chArm
  | .brake => p.chBrake

theorem mem_rangeRoles_iff {p : MapperParams} {r : Role} {c : Nat} : (r, c) ∈ rangeRoles p ↔ c = roleChannel p r := by
  cases r <;> simp [rangeRoles, roleChannel]

theorem readingInBand_iff {p : MapperParams} {x : Option Int} :
    readingInBand p x = true ↔ ∃ v, x = some v ∧ p.saneLo ≤ v ∧ v ≤ p.saneHi := by
  cases x <;> simp [readingInBand, inBand_iff]

/-- Every role has one place in `rangeRoles`, which the filter keeps or drops. -/
theorem cmRange_nodup (cfg : Cfg) (cs : ChannelSet) : (cmRange cfg cs).Nodup := by
  have hroles : ((rangeRoles cfg.par.mapper).map Prod.fst).Nodup := by
    rw [show (rangeRoles cfg.par.mapper).map Prod.fst = [.veer, .dir, .throttle, .pivot, .arm, .brake] from rfl]
    decide
  exact hroles.sublist (List.filter_sublist.map Prod.fst)

theorem mem_cmRange_iff {cfg : Cfg} {cs : ChannelSet} {r : Role} : r ∈ cmRange cfg cs ↔
    ¬ ∃ v, raw cs (roleChannel cfg.par.mapper r) = some v ∧ cfg.par.mapper.saneLo ≤ v ∧ v ≤ cfg.par.mapper.saneHi := by
  rw [← readingInBand_iff]
  simp [cmRange, mem_rangeRoles_iff]

theorem exec_cmRange (cs : ChannelSet) (s : State) :
    exec (.cmRange cs) s = .next { s with result := some (.roles (cmRange s.cfg cs)) } := rfl

/-- Settles O34: a role is listed exactly when its own channel is not in band. -/
theorem rangeReturnsTheOutOfBandRoles : Obligations.RangeReturnsTheOutOfBandRoles := by
  intro cs s
  refine ⟨cmRange s.cfg cs, exec_cmRange cs s, cmRange_nodup s.cfg cs, fun r => ?_⟩
  cases r with
  | veer | dir | throttle | pivot | arm | brake => exact mem_cmRange_iff

end Sys2Proof.Machine
end

section
/-! SUPPORT. The motion cycle of 42_motion_state_machine.md: which cycle runs, the three flags it computes (R215 to R220),
what it commands of each motor (R222 to R227), and what it puts out (R211, R212, R228). -/

namespace Sys2Proof.Machine

/-! ### Which cycle runs (R210, R214) -/

section

variable {cs : ChannelSet} {t : Time} {ovr : PerMotor (Option Q)} {s : State}

theorem exec_msmCycle_of_warmup (h : s.arm = .warmup) : exec (.msmCycle cs t ovr) s = .next (warmupCycle s) :=
  congrArg Host.Outcome.next (if_pos h)

theorem exec_msmCycle_of_ne_warmup (h : s.arm ≠ .warmup) :
    exec (.msmCycle cs t ovr) s = .next (processedCycle cs t ovr s) :=
  congrArg Host.Outcome.next (if_neg h)

end

/-- Settles O35: the warmup cycle as one record update, at either side of its bound. -/
theorem warmupOnlyCountsFrames : Obligations.WarmupOnlyCountsFrames := by
  intro cs t ovr s h
  rw [exec_msmCycle_of_warmup h, warmupCycle_eq, Nat.cast_succ]
  constructor
  · intro hlt
    rw [if_neg (not_le.mpr hlt), if_neg (not_le.mpr hlt), List.append_nil]
  · intro hge
    rw [if_pos hge, if_pos hge]

/-- Settles O41. -/
theorem motionCycleFrame : Obligations.MotionCycleFrame := by
  intro cs t ovr s h
  obtain ⟨_, _, _, _, _, _, _, _, _, hframe⟩ := processedCycle_frame cs t ovr s
  exact ⟨_, exec_msmCycle_of_ne_warmup h, by rw [hframe]⟩

/-! ### The low-throttle count (R215) -/

section

variable {cfg : Cfg} {cs : ChannelSet} {n : Nat}

/-- The count saturates at `ARM_COUNT`, which is no negative number in a valid configuration. -/
theorem lowNext_of_lowSample (h : lowSample cfg cs = true) (hc : 0 ≤ cfg.par.motion.armCount) :
    (lowNext cfg cs n : Int) = min ((n : Int) + 1) cfg.par.motion.armCount := by
  rw [lowNext, if_pos h]
  omega

theorem lowNext_of_not_lowSample (h : ¬ lowSample cfg cs = true) : lowNext cfg cs n = 0 := if_neg h

end

/-- Settles O36. -/
theorem lowSamplesAreCounted : Obligations.LowSamplesAreCounted := by
  intro cs t ovr s h hc
  obtain ⟨-, hlow, -⟩ := processedCycle_flags cs t ovr s
  refine ⟨_, exec_msmCycle_of_ne_warmup h, ?_⟩
  rw [← lowSample_iff, hlow]
  exact ⟨fun hl => lowNext_of_lowSample hl (by omega), lowNext_of_not_lowSample⟩

/-! ### The arm state (R213, R216 to R218) -/

section

variable {cfg : Cfg} {cs : ChannelSet} {low : Nat} {a : ArmState}

/-- Being armed takes the switch now, and either the count now or having been armed already. -/
theorem armNext_eq_armed_iff (h : a ≠ .warmup) : armNext cfg cs low a = .armed ↔
    armSwitch cfg cs = true ∧ (a = .armed ∨ cfg.par.motion.armCount ≤ (low : Int)) := by
  cases a with
  | warmup => exact absurd rfl h
  | idleUnarmed => simp [armNext]
  | armed => simp [armNext]

/-- The edges of R213's graph that a processed frame can take. -/
theorem armNext_cases : armNext cfg cs low a = a ∨ (a = .idleUnarmed ∧ armNext cfg cs low a = .armed) ∨
    (a = .armed ∧ armNext cfg cs low a = .idleUnarmed) := by
  cases a with
  | warmup => exact .inl rfl
  | idleUnarmed => simp only [armNext]; split <;> simp
  | armed => simp only [armNext]; split <;> simp

theorem ArmState.eq_idleUnarmed_of_ne (hw : a ≠ .warmup) (ha : a ≠ .armed) : a = .idleUnarmed := by
  cases a with
  | warmup => exact absurd rfl hw
  | idleUnarmed => rfl
  | armed => exact absurd rfl ha

end

/-- Settles O37: the arm state is computed from the count already updated with the frame. -/
theorem armingAndUnarming : Obligations.ArmingAndUnarming := by
  intro cs t ovr s h
  obtain ⟨harm, hlow, -⟩ := processedCycle_flags cs t ovr s
  refine ⟨_, exec_msmCycle_of_ne_warmup h, ?_, ?_⟩
  · rw [harm, hlow, ← armSwitch_iff]
    exact armNext_eq_armed_iff h
  · rw [harm]
    exact ArmState.eq_idleUnarmed_of_ne (armNext_ne_warmup h)

/-- In `WARMUP` a cycle stays there or goes to `IDLE_UNARMED` (R214). -/
theorem warmupCycle_arm_cases (s : State) : (warmupCycle s).arm = s.arm ∨ (warmupCycle s).arm = .idleUnarmed := by
  rw [warmupCycle_eq]
  exact (ite_eq_or_eq _ _ _).symm

/-- Settles O42, by the kind of cycle that runs. -/
theorem armTransitionGraph : Obligations.ArmTransitionGraph := by
  intro cs t ovr s
  by_cases h : s.arm = .warmup
  · exact ⟨_, exec_msmCycle_of_warmup h, (warmupCycle_arm_cases s).imp_right fun hi => .inl ⟨h, hi⟩⟩
  · obtain ⟨harm, -, -⟩ := processedCycle_flags cs t ovr s
    refine ⟨_, exec_msmCycle_of_ne_warmup h, ?_⟩
    rw [harm]
    exact armNext_cases.imp_right .inr

/-! ### The brake flag (R220) -/

section

variable {cfg : Cfg} {cs : ChannelSet} {brake : Bool} {v : Int}

/-- An absent or out-of-band brake channel holds the flag. -/
theorem brakeNext_of_not_readingInBand
    (h : ¬ readingInBand cfg.par.mapper (raw cs cfg.par.mapper.chBrake) = true) : brakeNext cfg cs brake = brake := by
  cases hv : raw cs cfg.par.mapper.chBrake with
  | none => simp [brakeNext, hv]
  | some v =>
    rw [hv] at h
    have hb : inBand cfg.par.mapper v = false := Bool.eq_false_of_not_eq_true h
    simp [brakeNext, hv, hb]

/-- In band the flag is engaged, released or held by the two thresholds. -/
theorem brakeNext_of_inBand (hv : raw cs cfg.par.mapper.chBrake = some v) (hb : inBand cfg.par.mapper v = true) :
    brakeNext cfg cs brake = if v < cfg.par.motion.brakeLo then true
      else if cfg.par.motion.brakeHi < v then false else brake := by
  simp [brakeNext, hv, hb]

end

/-- Settles O38: the thresholds in order make the three readings exclude each other. -/
theorem brakeHysteresis : Obligations.BrakeHysteresis := by
  intro cs t ovr s h hord
  obtain ⟨-, -, hbrake⟩ := processedCycle_flags cs t ovr s
  refine ⟨_, exec_msmCycle_of_ne_warmup h, ?_⟩
  rw [hbrake, ← readingInBand_iff]
  refine ⟨fun v hv hlo hhi => ?_, brakeNext_of_not_readingInBand⟩
  rw [brakeNext_of_inBand hv (inBand_iff.mpr ⟨hlo, hhi⟩)]
  refine ⟨fun hlt => if_pos hlt, fun hgt => ?_, fun hge hle => ?_⟩
  · rw [if_neg (by omega), if_pos hgt]
  · rw [if_neg (by omega), if_neg (by omega)]

/-! ### What a motor is commanded (R222 to R225) -/

section

variable {it : Intent} {ovr : PerMotor (Option Q)} {m : Motor}

theorem moving_iff : moving it = true ↔ it.direction ≠ .idle ∨ it.pivot ≠ .none := by
  simp [moving]

theorem pivotAffects_iff :
    pivotAffects it m = true ↔ (it.pivot = .left ∧ m = .L) ∨ (it.pivot = .right ∧ m = .R) := by
  cases m <;> simp [pivotAffects]

theorem opposite_baseSpin : (baseSpin it).opposite = if it.direction = .reverse then .forward else .reverse :=
  apply_ite Spin.opposite _ _ _

theorem motorDirection_eq : motorDirection it m =
    if (it.pivot = .left ∧ m = .L) ∨ (it.pivot = .right ∧ m = .R) then
      if it.direction = .reverse then .forward else .reverse
    else if it.direction = .reverse then .reverse else .forward := by
  simp only [motorDirection, pivotAffects_iff, opposite_baseSpin]
  rfl

theorem dutyRequest_of_some {d : Q} (h : ovr.get m = some d) : dutyRequest it ovr m = max 0 (min d 1) := by
  rw [← clamp_eq_max_min zero_le_one]
  simp [dutyRequest, h]

theorem dutyRequest_of_none (h : ovr.get m = none) : dutyRequest it ovr m = it.throttle / 100 := by
  simp [dutyRequest, h]

/-- Neither the clamp nor the scale of the duty request changes its sign. -/
theorem dutyRequest_pos_iff : 0 < dutyRequest it ovr m ↔ 0 < (ovr.get m).getD it.throttle := by
  cases h : ovr.get m with
  | none => simp [dutyRequest_of_none h]
  | some d => simp [dutyRequest_of_some h]

/-- The speed is the duty request behind the three gates (R225). -/
theorem motorSpeed_eq {s : State} : motorSpeed it ovr m s =
    if s.arm = .armed ∧ s.brake = false ∧ (it.direction ≠ .idle ∨ it.pivot ≠ .none) then dutyRequest it ovr m
    else 0 := by
  simp only [motorSpeed, moving_iff]

end

/-! ### The motors' registers after a processed cycle (R226, R227) -/

/-- What settling leaves of the registers that driving the motors reads. -/
@[simp] theorem settled_cfg (cs : ChannelSet) (s : State) : (settled cs s).cfg = s.cfg := by rw [settled_eq]
@[simp] theorem settled_cmd (cs : ChannelSet) (s : State) : (settled cs s).cmd = s.cmd := by rw [settled_eq]
@[simp] theorem settled_act (cs : ChannelSet) (s : State) : (settled cs s).act = s.act := by rw [settled_eq]
@[simp] theorem settled_lastAdv (cs : ChannelSet) (s : State) : (settled cs s).lastAdv = s.lastAdv := by rw [settled_eq]
@[simp] theorem settled_tuneOwner (cs : ChannelSet) (s : State) : (settled cs s).tuneOwner = s.tuneOwner := by
  rw [settled_eq]

/-- Driving one motor does not change the speed of another. -/
@[simp] theorem motorSpeed_driveMotor (it : Intent) (ovr : PerMotor (Option Q)) (m n : Motor) (s : State) :
    motorSpeed it ovr m (driveMotor it ovr n s) = motorSpeed it ovr m s :=
  motorSpeed_congr it ovr m (driveMotor_arm it ovr n s) (driveMotor_brake it ovr n s)

section

variable (cs : ChannelSet) (t : Time) (ovr : PerMotor (Option Q)) (s : State) (m : Motor)

/-- The flags are settled before the motors are driven. -/
theorem processedCycle_arm_settled : (processedCycle cs t ovr s).arm = (settled cs s).arm := by
  simp [processedCycle_eq]

theorem processedCycle_brake_settled : (processedCycle cs t ovr s).brake = (settled cs s).brake := by
  simp [processedCycle_eq]

theorem motorSpeed_settled (it : Intent) :
    motorSpeed it ovr m (settled cs s) = motorSpeed it ovr m (processedCycle cs t ovr s) :=
  motorSpeed_congr it ovr m (processedCycle_arm_settled cs t ovr s).symm (processedCycle_brake_settled cs t ovr s).symm

/-- Each motor's command: by the rules, with the flags of this frame, or as before if the tuner owns the motor. -/
theorem processedCycle_cmd_get : (processedCycle cs t ovr s).cmd.get m =
    if s.tuneOwner = some m then s.cmd.get m
    else ⟨motorSpeed (cmMap s.cfg cs) ovr m (processedCycle cs t ovr s), motorDirection (cmMap s.cfg cs) m,
      (processedCycle cs t ovr s).brake⟩ := by
  rw [← motorSpeed_settled, processedCycle_brake_settled, processedCycle_eq]
  cases m <;> simp [driveMotor_cmd_get]

/-- Each motor's shadow: what was just commanded, or as before if the tuner owns the motor. -/
theorem processedCycle_act_get : (processedCycle cs t ovr s).act.get m =
    if s.tuneOwner = some m then s.act.get m
    else ⟨some (motorSpeed (cmMap s.cfg cs) ovr m (processedCycle cs t ovr s)),
      some (motorDirection (cmMap s.cfg cs) m), some (processedCycle cs t ovr s).brake⟩ := by
  rw [← motorSpeed_settled, processedCycle_brake_settled, processedCycle_eq]
  cases m <;> simp [driveMotor_act_get]

end

/-- Settles O39: the command's three fields by their rules, and the shadow with the same three values. -/
theorem motorCommandsFollowTheRules : Obligations.MotorCommandsFollowTheRules := by
  intro cs t ovr s m h
  refine ⟨_, exec_msmCycle_of_ne_warmup h, fun hown => ?_, fun hown => ⟨cmMap s.cfg cs, rfl, ?_⟩⟩
  · rw [processedCycle_cmd_get, processedCycle_act_get, if_pos hown, if_pos hown]
    exact ⟨rfl, rfl⟩
  · rw [processedCycle_cmd_get, processedCycle_act_get, if_neg hown, if_neg hown, motorSpeed_eq, motorDirection_eq]
    refine ⟨?_, rfl⟩
    cases hovr : ovr.get m with
    | none => rw [dutyRequest_of_none hovr]
    | some d => rw [dutyRequest_of_some hovr]

/-! ### What a processed cycle puts out (R211, R212, R228, R381) -/

/-- Whether motion is requested while the machine is not armed (R228); tied to the model by `adviseNotArmed_eq_update`. -/
def unarmedRequest (it : Intent) (ovr : PerMotor (Option Q)) (arm : ArmState) : Bool :=
  decide (arm ≠ .armed ∧ moving it = true ∧ (dutyRequest it ovr .L > 0 ∨ dutyRequest it ovr .R > 0))

/-- The calls of one motor in a cycle: none when the tuner owns it (R227). -/
def cycleCalls (it : Intent) (ovr : PerMotor (Option Q)) (s : State) (m : Motor) : List Output :=
  if s.tuneOwner = some m then []
  else motorCalls (motorDirection it m) (motorSpeed it ovr m s) m s.brake (s.act.get m).brake

theorem exists_motor_iff {p : Motor → Prop} : (∃ m, p m) ↔ p .L ∨ p .R := by
  constructor
  · rintro ⟨m, h⟩
    cases m with
    | L => exact .inl h
    | R => exact .inr h
  · exact fun h => h.elim (⟨_, ·⟩) (⟨_, ·⟩)

theorem unarmedRequest_iff {it : Intent} {ovr : PerMotor (Option Q)} {arm : ArmState} :
    unarmedRequest it ovr arm = true ↔ arm ≠ .armed ∧ (it.direction ≠ .idle ∨ it.pivot ≠ .none) ∧
      ∃ m, 0 < (ovr.get m).getD it.throttle := by
  simp only [unarmedRequest, decide_eq_true_eq, gt_iff_lt, moving_iff, dutyRequest_pos_iff, exists_motor_iff]

theorem advisoryDue_iff {cfg : Cfg} {last : Option Time} {t : Time} :
    advisoryDue cfg last t = true ↔ ∀ l, last = some l → cfg.par.motion.advInterval ≤ t - l := by
  cases last <;> simp [advisoryDue]

/-- R212's condition as the statement writes it, with the branches exchanged. -/
theorem ite_worthEmitting {α : Type} {cfg : Cfg} {prev : Option Intent} {it : Intent} (x y : α) :
    (if worthEmitting cfg prev it = true then x else y) =
      if prev = some it ∧ it.mode ≠ cfg.par.mapper.modeVerbose then y else x := by
  simp only [← worthEmitting_eq_false]
  cases worthEmitting cfg prev it <;> rfl

section

variable (it : Intent) (ovr : PerMotor (Option Q)) (t : Time) (s : State)

theorem driveMotor_outputs (m : Motor) : (driveMotor it ovr m s).outputs = s.outputs ++ cycleCalls it ovr s m := by
  rw [driveMotor_eq, cycleCalls]
  split
  · exact (List.append_nil _).symm
  · rfl

/-- The advisory as one record update: the condition is raised on every such request, the event goes out when due. -/
theorem adviseNotArmed_eq_update : adviseNotArmed it ovr t s = { s with
    outputs := s.outputs ++
      if unarmedRequest it ovr s.arm = true ∧ advisoryDue s.cfg s.lastAdv t = true then [.evNotArmed t] else []
    errors := s.errors ++ if unarmedRequest it ovr s.arm = true then [.notArmedError] else []
    lastAdv := if unarmedRequest it ovr s.arm = true ∧ advisoryDue s.cfg s.lastAdv t = true then some t
      else s.lastAdv } := by
  rw [adviseNotArmed_eq]
  by_cases h : unarmedRequest it ovr s.arm = true
  · rw [if_pos (of_decide_eq_true h)]
    simp only [h, true_and, if_true]
  · rw [if_neg (h <| decide_eq_true ·)]
    simp only [h, Bool.false_eq_true, false_and, if_false, List.append_nil]

end

/-- The right motor's calls do not depend on whether the left motor has been driven. -/
theorem cycleCalls_driveMotor_of_ne (it : Intent) (ovr : PerMotor (Option Q)) {m n : Motor} (h : n ≠ m) (s : State) :
    cycleCalls it ovr (driveMotor it ovr n s) m = cycleCalls it ovr s m := by
  simp [cycleCalls, driveMotor_act_get, h]

section

variable (cs : ChannelSet) (t : Time) (ovr : PerMotor (Option Q)) (s : State)

/-- The outputs of a processed cycle: what settling puts out, the calls of the two motors, the advisory. -/
theorem processedCycle_outputs : (processedCycle cs t ovr s).outputs = (settled cs s).outputs ++
    cycleCalls (cmMap s.cfg cs) ovr (settled cs s) .L ++ cycleCalls (cmMap s.cfg cs) ovr (settled cs s) .R ++
    if unarmedRequest (cmMap s.cfg cs) ovr (settled cs s).arm = true ∧ advisoryDue s.cfg s.lastAdv t = true then
      [.evNotArmed t] else [] := by
  rw [processedCycle_eq, adviseNotArmed_eq_update, driveMotor_outputs, driveMotor_outputs,
    cycleCalls_driveMotor_of_ne _ _ (by decide)]
  simp only [driveMotor_arm, driveMotor_cfg, driveMotor_lastAdv, settled_cfg, settled_lastAdv]

theorem processedCycle_errors : (processedCycle cs t ovr s).errors = (settled cs s).errors ++
    if unarmedRequest (cmMap s.cfg cs) ovr (settled cs s).arm = true then [.notArmedError] else [] := by
  rw [processedCycle_eq, adviseNotArmed_eq_update]
  simp only [driveMotor_arm, driveMotor_errors]

theorem processedCycle_lastAdv : (processedCycle cs t ovr s).lastAdv =
    if unarmedRequest (cmMap s.cfg cs) ovr (settled cs s).arm = true ∧ advisoryDue s.cfg s.lastAdv t = true then some t
    else s.lastAdv := by
  rw [processedCycle_eq, adviseNotArmed_eq_update]
  simp only [driveMotor_arm, driveMotor_cfg, driveMotor_lastAdv, settled_cfg, settled_lastAdv]

theorem processedCycle_prevIntent : (processedCycle cs t ovr s).prevIntent = (settled cs s).prevIntent := by
  simp [processedCycle_eq]

/-- The calls of a motor send what its command holds after the cycle. -/
theorem cycleCalls_settled (m : Motor) : cycleCalls (cmMap s.cfg cs) ovr (settled cs s) m =
    if s.tuneOwner = some m then []
    else motorCalls ((processedCycle cs t ovr s).cmd.get m).direction ((processedCycle cs t ovr s).cmd.get m).speed m
      (processedCycle cs t ovr s).brake (s.act.get m).brake := by
  rw [cycleCalls, settled_tuneOwner, processedCycle_cmd_get, motorSpeed_settled cs t, processedCycle_brake_settled,
    settled_act]
  split
  · rfl
  · rfl

end

/-- Settles O40: the parts of the cycle in their order, with every flag read from the state the cycle leaves. -/
theorem motionCycleOutputsInOrder : Obligations.MotionCycleOutputsInOrder := by
  intro cs t ovr s h
  refine ⟨_, cmMap s.cfg cs, cmRange s.cfg cs, cycleCalls (cmMap s.cfg cs) ovr (settled cs s),
    unarmedRequest (cmMap s.cfg cs) ovr (settled cs s).arm, exec_msmCycle_of_ne_warmup h, rfl, rfl,
    cycleCalls_settled cs t ovr s, ?asked, ?outputs, ?errors, ?prevIntent, ?lastAdv⟩
  case asked =>
    rw [processedCycle_arm_settled]
    refine unarmedRequest_iff.trans (and_congr_right' (and_congr_right' (exists_congr fun m => ?_)))
    cases ovr.get m with
    | none | some => rfl
  case outputs =>
    rw [processedCycle_outputs, processedCycle_arm_settled, processedCycle_brake_settled, ← ite_worthEmitting]
    simp only [← advisoryDue_iff]
    rw [settled_eq]
  case errors =>
    rw [processedCycle_errors, settled_eq]
  case prevIntent =>
    rw [processedCycle_prevIntent, settled_eq, ← ite_worthEmitting]
  case lastAdv =>
    rw [processedCycle_lastAdv]
    simp only [advisoryDue_iff]

end Sys2Proof.Machine
end

section
/-! SUPPORT. The pulse rate estimator of 43_pulse_rate_estimator.md: a sample by its two cases (R260), a tick as the
rate of its differences and then the new reference reading (R264), and the query of the speed (R268). -/

namespace Sys2Proof.Machine

section

variable {m : Motor} {delta count c : Nat} {elapsed : Q} {t l : Time} {s : State}

/-! ### The sample (R260) -/

theorem preSample_of_nonpos (h : elapsed ≤ 0) : preSample m delta elapsed s = s.raise .sampleTimingError := if_pos h

theorem preSample_of_pos (h : 0 < elapsed) : preSample m delta elapsed s =
    s.setPre m { s.pre.get m with rate := rnd s.cfg (delta / elapsed) } := if_neg (not_le.mpr h)

theorem exec_preSample (m : Motor) (delta : Nat) (elapsed : Q) (s : State) : exec (.preSample m delta elapsed) s =
    .next ((preSample m delta elapsed s).ret (.number ((preSample m delta elapsed s).pre.get m).rate)) := rfl

/-! ### The differences of a tick (R264) -/

theorem preDifference_of_first (h : (s.pre.get m).lastCount = none) : preDifference m count t s = s := by
  rw [preDifference, h]

theorem preDifference_of_some (hc : (s.pre.get m).lastCount = some c) (hl : (s.pre.get m).lastT = some l) :
    preDifference m count t s =
      if count < c ∨ t ≤ l then s.raise .sampleTimingError else preSample m (count - c) (t - l) s := by
  rw [preDifference, hc, hl]

/-- A later reading whose count did not go back is a sample of the differences; its time step is positive. -/
theorem preDifference_of_later (hc : (s.pre.get m).lastCount = some c) (hl : (s.pre.get m).lastT = some l)
    (hcount : c ≤ count) (ht : l < t) : preDifference m count t s =
      s.setPre m { s.pre.get m with rate := rnd s.cfg ((count - c : Nat) / (t - l)) } := by
  rw [preDifference_of_some hc hl, if_neg (not_or.mpr ⟨not_lt.mpr hcount, not_le.mpr ht⟩),
    preSample_of_pos (sub_pos.mpr ht)]

/-- The reading is stored after the differences are formed, beside the rate they leave, and that rate is returned. -/
theorem exec_preTick (m : Motor) (count : Nat) (t : Time) (s : State) : exec (.preTick m count t) s =
    .next (((preDifference m count t s).setPre m
      ⟨((preDifference m count t s).pre.get m).rate, some count, some t⟩).ret
        (.number ((preDifference m count t s).pre.get m).rate)) := by
  change Host.Outcome.next ((preTick m count t s).ret _) = _
  rw [preTick, State.setPre_pre, PerMotor.get_set_self]

end

/-- Settles O44, by the sign of the elapsed time. -/
theorem sampleGivesTheRate : Obligations.SampleGivesTheRate := by
  intro m delta elapsed s
  rw [exec_preSample]
  constructor
  · intro h
    rw [preSample_of_nonpos h]
    rfl
  · intro h
    rw [preSample_of_pos h, State.setPre_pre, PerMotor.get_set_self]
    rfl

/-- Settles O45: the first reading, one that did not advance, and one that did. Only the last writes the registers
twice, the rate and then the reading. -/
theorem tickGivesTheRateOfTheDifferences : Obligations.TickGivesTheRateOfTheDifferences := by
  intro m count t s
  rw [exec_preTick]
  refine ⟨?first, ?notAdvanced, ?advanced⟩
  case first =>
    intro h
    rw [preDifference_of_first h]
    rfl
  case notAdvanced =>
    intro c l hc hl h
    rw [preDifference_of_some hc hl, if_pos h]
    rfl
  case advanced =>
    intro c l hc hl hcount ht
    rw [preDifference_of_later hc hl hcount ht, State.setPre_pre, PerMotor.get_set_self, State.setPre, State.setPre,
      PerMotor.set_set]
    rfl

/-- Settles O46: the query only returns a result. -/
theorem rpmQuery : Obligations.RpmQuery := fun _ _ _ => rfl

end Sys2Proof.Machine
end

section
/-! SUPPORT. The PIDController of 44_pid_controller.md: the time step an update has or has not (R282, R283), the registers
an update leaves, and the host's five operations, on the tuner's motor (R298) and on another. -/

namespace Sys2Proof.Machine

/-! ### One update on the registers (R282 to R287) -/

section

variable {cfg : Cfg} {meas u : Q} {dt : Option Q} {t tp : Time} {p : PidRegs}

theorem pidDt_of_later (h : p.tPrev = some tp) (ht : tp < t) : pidDt p t = some (t - tp) := by
  rw [pidDt, h]
  exact if_pos (sub_pos.mpr ht)

/-- A first update and one that is not later than the last have no time step (R283). -/
theorem pidDt_of_not_later (h : ∀ tp, p.tPrev = some tp → t ≤ tp) : pidDt p t = none := by
  unfold pidDt
  split
  case h_1 tp htp => exact if_neg (sub_nonpos.mpr (h tp htp)).not_gt
  case h_2 => rfl

/-- The registers an update leaves, given its time step and its unclamped output. -/
theorem pidStep_eq (hdt : pidDt p t = dt)
    (hu : u = rnd cfg (p.kp * (p.sp - meas) + p.ki * pidInew cfg p (p.sp - meas) dt +
      p.kd * pidDeriv p (p.sp - meas) dt)) :
    pidStep cfg meas t p = { p with
      integ := if cfg.par.antiWindup = true ∧ (u < p.outMin ∨ p.outMax < u) then p.integ
        else pidInew cfg p (p.sp - meas) dt
      ePrev := p.sp - meas
      tPrev := some t
      lastU := u
      lastOut := clamp u p.outMin p.outMax } := by
  subst hdt hu
  simp [pidStep]

/-- Unit proportional gain alone: neither the integral nor the derivative enters the output (R289). -/
theorem pidStep_lastU_of_proportional (hp : p.kp = 1) (hi : p.ki = 0) (hd : p.kd = 0) :
    (pidStep cfg meas t p).lastU = rnd cfg (p.sp - meas) := by
  rw [pidStep_eq rfl rfl, hp, hi, hd, one_mul, zero_mul, zero_mul, add_zero, add_zero]

theorem pidStep_lastOut : (pidStep cfg meas t p).lastOut =
    clamp (pidStep cfg meas t p).lastU p.outMin p.outMax := rfl

end

/-! ### The host's operations -/

section

variable {m : Motor} {meas kp ki kd sp lo hi : Q} {t : Time} {s : State}

/-! On the tuner's motor they are refused (R298). -/

theorem exec_pidUpdate_of_owned (h : s.tuneOwner = some m) :
    exec (.pidUpdate m meas t) s = .next (s.ret (.number (s.pid.get m).lastOut)) := if_pos h

theorem exec_pidReset_of_owned (h : s.tuneOwner = some m) : exec (.pidReset m) s = .next s := if_pos h

theorem exec_pidSetGains_of_owned (h : s.tuneOwner = some m) : exec (.pidSetGains m kp ki kd) s = .next s := if_pos h

theorem exec_pidSetSetpoint_of_owned (h : s.tuneOwner = some m) : exec (.pidSetSetpoint m sp) s = .next s := if_pos h

/-- Bounds out of order are refused on every motor (R296). -/
theorem exec_pidSetBounds_of_refused (h : s.tuneOwner = some m ∨ hi < lo) :
    exec (.pidSetBounds m lo hi) s = .next s := if_pos h

/-! On another motor each writes that motor's PID registers (R282, R290 to R296). -/

theorem exec_pidUpdate_of_not_owned (h : s.tuneOwner ≠ some m) : exec (.pidUpdate m meas t) s =
    .next ((s.setPid m (pidStep s.cfg meas t (s.pid.get m))).ret
      (.number (pidStep s.cfg meas t (s.pid.get m)).lastOut)) := by
  change execPidUpdate m meas t s = _
  simp only [execPidUpdate, if_neg h, pidUpdate, State.setPid_pid, PerMotor.get_set_self]

theorem exec_pidReset_of_not_owned (h : s.tuneOwner ≠ some m) :
    exec (.pidReset m) s = .next (s.setPid m (pidClear (s.pid.get m))) := if_neg h

theorem exec_pidSetGains_of_not_owned (h : s.tuneOwner ≠ some m) :
    exec (.pidSetGains m kp ki kd) s = .next (s.setPid m (pidGains kp ki kd (s.pid.get m))) := if_neg h

theorem exec_pidSetSetpoint_of_not_owned (h : s.tuneOwner ≠ some m) :
    exec (.pidSetSetpoint m sp) s = .next (s.setPid m { s.pid.get m with sp := sp }) := if_neg h

theorem exec_pidSetBounds_of_not_owned (h : s.tuneOwner ≠ some m) (hle : lo ≤ hi) : exec (.pidSetBounds m lo hi) s =
    .next (s.setPid m { s.pid.get m with outMin := lo, outMax := hi }) := if_neg (not_or.mpr ⟨h, not_lt.mpr hle⟩)

end

/-- Settles O47: the time step is `t - tp`, so the integral and the derivative are those of R284 and R285. -/
theorem pidUpdateWithATimeStep : Obligations.PidUpdateWithATimeStep := by
  intro m meas t tp s p e iNew u hfree hp htp ht he hi hu
  subst hp he hi
  rw [exec_pidUpdate_of_not_owned hfree, pidStep_eq (pidDt_of_later htp ht) hu]
  rfl

/-- Settles O48: with no time step the integral an update may commit is the old one, and the derivative is 0. -/
theorem pidUpdateWithoutATimeStep : Obligations.PidUpdateWithoutATimeStep := by
  intro m meas t s p e u hfree hp hnot he hu
  subst hp he
  rw [← add_zero (_ * _ + _), ← mul_zero (s.pid.get m).kd] at hu
  rw [exec_pidUpdate_of_not_owned hfree, pidStep_eq (pidDt_of_not_later hnot) hu, pidInew, ite_self]
  rfl

/-- Settles O49: the gains leave the error alone under the rounding, and exact rounding does nothing. -/
theorem proportionalOnlyGivesTheError : Obligations.ProportionalOnlyGivesTheError := by
  intro m meas t s hfree hkp hki hkd
  refine ⟨_, exec_pidUpdate_of_not_owned hfree, ?_⟩
  rw [State.ret_pid, State.setPid_pid, PerMotor.get_set_self, pidStep_lastOut,
    pidStep_lastU_of_proportional hkp hki hkd]
  exact ⟨rfl, fun hexact => rnd_exact hexact _, rfl⟩

/-- Settles O50, operation by operation. -/
theorem hostPidOperationsAreRefusedOnTheOwnedMotor : Obligations.HostPidOperationsAreRefusedOnTheOwnedMotor :=
  fun _ _ h => ⟨fun _ _ => exec_pidUpdate_of_owned h, exec_pidReset_of_owned h,
    fun _ _ _ => exec_pidSetGains_of_owned h, fun _ => exec_pidSetSetpoint_of_owned h,
    fun _ _ => exec_pidSetBounds_of_refused (.inl h)⟩

/-- Settles O51, operation by operation; the bounds by their order. -/
theorem pidRegisterWrites : Obligations.PidRegisterWrites := by
  intro m s p hfree hp
  subst hp
  exact ⟨exec_pidReset_of_not_owned hfree, fun _ _ _ => exec_pidSetGains_of_not_owned hfree,
    fun _ => exec_pidSetSetpoint_of_not_owned hfree, fun _ _ hle => exec_pidSetBounds_of_not_owned hfree hle,
    fun _ _ hlt => exec_pidSetBounds_of_refused (.inr hlt)⟩

end Sys2Proof.Machine
end

section
/-! SUPPORT. The AutoTuner of 45_auto_tuner.md: each operation by the phase it finds (R311, R314, R322, R330), the
crossing rule by its cases (R318), the tests behind a sample by the one that decides (R314, second half), and the period
of a success (R324). -/

namespace Sys2Proof.Machine

/-! ### The operations, phase by phase -/

section

variable {m : Motor} {sp rate : Q} {t : Time} {s : State}

theorem exec_atStart_of_running (h : s.tuner.phase = .running) : exec (.atStart m sp t) s = .next s := if_pos h

theorem exec_atStart_of_idle (h : s.tuner.phase = .idle) : exec (.atStart m sp t) s = .next (startTuner m sp t s) :=
  if_neg (by simp [h])

theorem exec_atSample_of_idle (h : s.tuner.phase = .idle) : exec (.atSample rate t) s = .next s := if_pos h

theorem exec_atSample_of_running (h : s.tuner.phase = .running) : exec (.atSample rate t) s =
    if s.tuner.cancel then .next (finish .aborted s) else .next (tunerDecide t (tunerSample rate t s)) :=
  if_neg (by simp [h])

theorem exec_atSample_of_cancelled (h : s.tuner.phase = .running) (hc : s.tuner.cancel = true) :
    exec (.atSample rate t) s = .next (finish .aborted s) :=
  (exec_atSample_of_running h).trans (if_pos hc)

theorem exec_atSample_of_uncancelled (h : s.tuner.phase = .running) (hc : s.tuner.cancel = false) :
    exec (.atSample rate t) s = .next (tunerDecide t (tunerSample rate t s)) :=
  (exec_atSample_of_running h).trans (if_neg (by simp [hc]))

theorem exec_atCancel_of_running (h : s.tuner.phase = .running) :
    exec .atCancel s = .next (s.setTuner { s.tuner with cancel := true }) := if_pos h

theorem exec_atCancel_of_idle (h : s.tuner.phase = .idle) : exec .atCancel s = .next s := if_neg (by simp [h])

end

/-! ### The crossing rule (R318) -/

section

variable {e : Q} {t : Time} {r : TunerRegs}

theorem sign_of_ne_zero (h : e ≠ 0) : sign e = if 0 < e then .pos else .neg := by
  by_cases hpos : 0 < e
  · rw [sign_of_pos hpos, if_pos hpos]
  · rw [sign_of_neg (lt_of_le_of_ne (not_lt.mp hpos) h), if_neg hpos]

theorem recordCrossing_of_recorded (he : e ≠ 0) (hs : sign e ≠ r.lastSign) (ht : ∀ c, r.c1 = some c → c < t) :
    recordCrossing e t r =
      { r with c3 := r.c2, c2 := r.c1, c1 := some t, crossCnt := r.crossCnt + 1, lastSign := sign e } :=
  (if_neg (mt sign_eq_zero.mp he)).trans (if_pos ⟨hs, laterThanCrossing_iff.mpr ht⟩)

/-- The sign is old, or the sample is not later than the last crossing. -/
theorem recordCrossing_of_not_recorded (he : e ≠ 0) (h : sign e = r.lastSign ∨ ∃ c, r.c1 = some c ∧ t ≤ c) :
    recordCrossing e t r = { r with lastSign := sign e } := by
  refine (if_neg (mt sign_eq_zero.mp he)).trans (if_neg ?_)
  rintro ⟨hs, hlater⟩
  rcases h with hold | ⟨c, hc, htc⟩
  · exact hs hold
  · exact (laterThanCrossing_iff.mp hlater c hc).not_ge htc

/-- What a sample leaves of the tuner registers `r₀`. -/
theorem frame_of_eq_recordCrossing {r₀ : TunerRegs} (h : r = recordCrossing e t r₀) :
    r.motor = r₀.motor ∧ r.sp = r₀.sp ∧ r.k = r₀.k ∧ r.sweepStart = r₀.sweepStart ∧ r.trialStart = r₀.trialStart ∧
      r.saved = r₀.saved := by
  simp [h]

/-- A trial begins with the crossings cleared, whatever the last sample recorded (R313). -/
theorem trialRegs_recordCrossing (k : Nat) :
    trialRegs t { recordCrossing e t r with k := k } = trialRegs t { r with k := k } := by
  rw [recordCrossing_frame]
  rfl

/-- The crossing times of the invariant that stand strictly increase, so the period of R324 is positive. -/
theorem c3_lt_c1_of_crossInv {a c : Time} (h : CrossInv r) (ha : r.c1 = some a) (hc : r.c3 = some c) : c < a := by
  obtain ⟨-, hc2, hc3, h12, h23⟩ := h
  have hcount : 3 ≤ r.crossCnt := hc3.mpr (by simp [hc])
  obtain ⟨b, hb⟩ := Option.isSome_iff_exists.mp (hc2.mp (by omega))
  exact (h23 b c hb hc).trans (h12 a b ha hb)

end

/-! ### The result of a success (R324) -/

/-- A success has its period from the last and the third-to-last crossing. -/
theorem period_of_successResult {cfg : Cfg} {k ku pu kp ki kd : Q} {r : TunerRegs}
    (h : successResult cfg k r = .success ku pu kp ki kd) : ∃ a c, r.c1 = some a ∧ r.c3 = some c ∧ pu = a - c := by
  unfold successResult at h
  split at h
  case h_1 a c ha hc =>
    cases h
    exact ⟨a, c, ha, hc, rfl⟩
  case h_2 => cases h

theorem successResult_of_crossings {cfg : Cfg} {k : Q} {r : TunerRegs} {a c : Time} (ha : r.c1 = some a)
    (hc : r.c3 = some c) : successResult cfg k r = .success k (a - c) (rnd cfg (cfg.par.tuner.znKp * k))
      (rnd cfg (cfg.par.tuner.znKiNum * rnd cfg (cfg.par.tuner.znKp * k) / (a - c)))
      (rnd cfg (rnd cfg (cfg.par.tuner.znKp * k) * (a - c) / cfg.par.tuner.znKdDen)) := by
  rw [successResult, ha, hc]

/-! ### The tests behind a sample (R314, second half) -/

section

variable {t : Time} {s : State}

theorem tunerDecide_of_enough_crossings (h : s.cfg.par.tuner.minCrossings ≤ (s.tuner.crossCnt : Int)) :
    tunerDecide t s = finish (successResult s.cfg (s.pid.get s.tuner.motor).kp s.tuner) s := if_pos h

variable (hfew : (s.tuner.crossCnt : Int) < s.cfg.par.tuner.minCrossings)

include hfew

theorem tunerDecide_of_budget_spent (h : s.cfg.par.tuner.sweepBudget ≤ t - s.tuner.sweepStart) :
    tunerDecide t s = finish .failure s := (if_neg hfew.not_ge).trans (if_pos h)

variable (hbudget : t - s.tuner.sweepStart < s.cfg.par.tuner.sweepBudget)

include hbudget

theorem tunerDecide_inside_trial (h : t - s.tuner.trialStart < s.cfg.par.tuner.trialDuration) : tunerDecide t s = s :=
  (if_neg hfew.not_ge).trans ((if_neg hbudget.not_ge).trans (if_neg h.not_ge))

variable (hend : s.cfg.par.tuner.trialDuration ≤ t - s.tuner.trialStart)

include hend

theorem tunerDecide_of_trial_end : tunerDecide t s =
    if trialGain s.cfg (s.tuner.k + 1) > s.cfg.par.tuner.kpEnd then
      finish .failure (s.setTuner { s.tuner with k := s.tuner.k + 1 })
    else beginTrial t (s.setTuner { s.tuner with k := s.tuner.k + 1 }) :=
  (if_neg hfew.not_ge).trans ((if_neg hbudget.not_ge).trans (if_pos hend))

end

/-- Only the first test ends in a success: a tuner without a result succeeds with `success_result()`. -/
theorem successResult_of_tunerDecide {t : Time} {s : State} {ku pu kp ki kd : Q} (hnone : s.tuner.result = none)
    (h : (tunerDecide t s).tuner.result = some (.success ku pu kp ki kd)) :
    successResult s.cfg (s.pid.get s.tuner.motor).kp s.tuner = .success ku pu kp ki kd := by
  rcases le_or_gt s.cfg.par.tuner.minCrossings (s.tuner.crossCnt : Int) with henough | hfew
  · rw [tunerDecide_of_enough_crossings henough, finish_eq] at h
    exact Option.some.inj h
  rcases le_or_gt s.cfg.par.tuner.sweepBudget (t - s.tuner.sweepStart) with hspent | hbudget
  · rw [tunerDecide_of_budget_spent hfew hspent, finish_eq] at h
    cases h
  rcases le_or_gt s.cfg.par.tuner.trialDuration (t - s.tuner.trialStart) with hend | hinside
  · rw [tunerDecide_of_trial_end hfew hbudget hend] at h
    split at h
    · rw [finish_eq] at h
      cases h
    · rw [beginTrial_eq] at h
      cases hnone.symm.trans h
  · rw [tunerDecide_inside_trial hfew hbudget hinside] at h
    cases hnone.symm.trans h

/-! ### A sample that sees no cancel flag -/

/-- The state a sample tests: motor `m` with the registers `p` of the PID step, the duty `du` commanded and sent, and
the tuner registers `r` (R314, first half; `exec_atSample_eq`). -/
def sampled (m : Motor) (p : PidRegs) (r : TunerRegs) (du : Q) (s : State) : State :=
  { s with
    pid := s.pid.set m p
    cmd := s.cmd.set m ⟨du, .forward, false⟩
    act := s.act.set m { s.act.get m with duty := some du }
    tuner := r
    outputs := s.outputs ++ [.setDuty m du] }

section

variable {rate du : Q} {t : Time} {s : State} {m : Motor} {p : PidRegs} {r : TunerRegs}

theorem exec_atSample_eq (hrun : s.tuner.phase = .running) (hcancel : s.tuner.cancel = false) (hm : m = s.tuner.motor)
    (hp : p = pidStep s.cfg rate t (s.pid.get m)) (hr : r = recordCrossing ((s.pid.get m).sp - rate) t s.tuner)
    (hdu : du = clamp p.lastOut 0 1) : exec (.atSample rate t) s = .next (tunerDecide t (sampled m p r du s)) := by
  subst hdu hr hp hm
  rw [exec_atSample_of_uncancelled hrun hcancel, tunerSample_eq, sampled]

/-- `finish` behind a sample: the motor's command, duty and PID registers are written a second time. -/
theorem finish_sampled (res : TuneResult) {sv : SavedGains} (hm : r.motor = m) (hsaved : r.saved = sv) :
    finish res (sampled m p r du s) = { s with
    pid := s.pid.set m (finishPid res sv p)
    cmd := s.cmd.set m ⟨0, .forward, true⟩
    act := s.act.set m { s.act.get m with duty := some 0, brake := some true }
    tuner := finishRegs res r
    tuneOwner := none
    outputs := s.outputs ++ [.setDuty m du, .setDuty m 0, .setBrake m true] ++ finishNoteOutputs m res ++
      [.evTuneResult m res]
    errors := s.errors ++ finishNoteErrors res } := by
  subst hm hsaved
  simp [finish_eq, sampled]

/-- `begin_trial` behind a sample: the motor's PID registers are written a second time, the duty just sent stands. -/
theorem beginTrial_sampled {k : Nat} {sp : Q} (hm : r.motor = m) (hk : r.k = k) (hsp : r.sp = sp) :
    beginTrial t (sampled m p r du s) = sampled m (trialPid s.cfg k sp p) (trialRegs t r) du s := by
  subst hm hk hsp
  simp [beginTrial_eq, sampled]

end

/-! ### The statements -/

/-- Settles O60: a success has its period from crossings of the invariant, which the sample keeps (O8). -/
theorem tunedPeriodIsPositive : Obligations.TunedPeriodIsPositive := by
  intro rate t s s' ku pu kp ki kd hsafe hrun hexec hres hnone
  cases hcancel : s.tuner.cancel
  case true =>
    rw [exec_atSample_of_cancelled hrun hcancel, finish_eq] at hexec
    cases hexec
    cases hres
  case false =>
    rw [exec_atSample_of_uncancelled hrun hcancel] at hexec
    cases hexec
    have hnone' : (tunerSample rate t s).tuner.result = none := by rw [tunerSample_eq, recordCrossing_result, hnone]
    obtain ⟨a, c, ha, hc, rfl⟩ := period_of_successResult (successResult_of_tunerDecide hnone' hres)
    obtain ⟨-, -, -, -, -, hcross, -⟩ := safeState_tunerSample rate t hsafe
    exact sub_pos.mpr (c3_lt_c1_of_crossInv hcross ha hc)

/-- Settles O52. The gain of trial 0 is `KP_START`. -/
theorem startBeginsTheFirstTrial : Obligations.StartBeginsTheFirstTrial := by
  intro m sp t s p hidle hp
  subst hp
  have hgain : trialGain s.cfg 0 = s.cfg.par.tuner.kpStart := by simp [trialGain]
  rw [exec_atStart_of_idle hidle, startTuner_eq, trialPid, hgain]
  rfl

/-- Settles O53, operation by operation. -/
theorem tunerRefusalsAndCancel : Obligations.TunerRefusalsAndCancel :=
  ⟨fun _ _ _ _ => exec_atStart_of_running, fun _ _ _ => exec_atSample_of_idle, fun _ => exec_atCancel_of_running,
    fun _ => exec_atCancel_of_idle⟩

/-- Settles O54: `finish(ABORTED)` with no sample before it. -/
theorem cancelledSampleAborts : Obligations.CancelledSampleAborts := by
  intro rate t s m hrun hcancel hm
  subst hm
  rw [exec_atSample_of_cancelled hrun hcancel, finish_eq]
  simp [finishPid, pidClear, finishRegs, finishNoteOutputs, finishNoteErrors]

/-- Settles O55, by the sign of the error. -/
theorem crossingRule : Obligations.CrossingRule := by
  intro e t r
  refine ⟨fun he => if_pos (sign_eq_zero.mpr he), fun g he hg => ?_⟩
  rw [← sign_of_ne_zero he] at hg
  subst hg
  exact ⟨recordCrossing_of_recorded he, recordCrossing_of_not_recorded he⟩

/-- Settles O56: no test decides. -/
theorem sampleInsideATrial : Obligations.SampleInsideATrial := by
  intro rate t s m p r du hrun hcancel hm hp hr hdu hfew hbudget htrial
  obtain ⟨-, -, -, hsweep, hstart, -⟩ := frame_of_eq_recordCrossing hr
  rw [← hsweep] at hbudget
  rw [← hstart] at htrial
  have hdecide : tunerDecide t (sampled m p r du s) = sampled m p r du s :=
    tunerDecide_inside_trial (s := sampled m p r du s) hfew hbudget htrial
  rw [exec_atSample_eq hrun hcancel hm hp hr hdu, hdecide, sampled]

/-- Settles O57: the trial's end decides, and the next gain is in the sweep. -/
theorem trialEndBeginsTheNextTrial : Obligations.TrialEndBeginsTheNextTrial := by
  intro rate t s m p r du hrun hcancel hm hp hr hdu hfew hbudget htrial hgain
  obtain ⟨hmotor, hsp, hk, hsweep, hstart, -⟩ := frame_of_eq_recordCrossing hr
  rw [← hsweep] at hbudget
  rw [← hstart] at htrial
  rw [← hk] at hgain
  have hdecide : tunerDecide t (sampled m p r du s) = beginTrial t (sampled m p { r with k := r.k + 1 } du s) :=
    (tunerDecide_of_trial_end (s := sampled m p r du s) hfew hbudget htrial).trans (if_neg hgain.not_gt)
  rw [exec_atSample_eq hrun hcancel hm hp hr hdu, hdecide,
    beginTrial_sampled (r := { r with k := r.k + 1 }) (hmotor.trans hm.symm) rfl hsp, hk, hr, trialRegs_recordCrossing]
  rfl

/-- Settles O58: the crossings decide, and `Ku` is the gain the PID step leaves alone. -/
theorem lastCrossingTunesTheGains : Obligations.LastCrossingTunesTheGains := by
  intro rate t s m p r a c du kp ki kd res hrun hcancel hm hp hr hdu hmin ha hc hkp hki hkd hres
  obtain ⟨hmotor, -, -, -, -, hsaved⟩ := frame_of_eq_recordCrossing hr
  have hpid : (sampled m p r du s).pid.get r.motor = p := by rw [hmotor, ← hm, sampled, PerMotor.get_set_self]
  have hsuccess : successResult s.cfg p.kp r = res := by
    rw [successResult_of_crossings ha hc, hres, hkd, hki, hkp]
  have hdecide : tunerDecide t (sampled m p r du s) = finish res (sampled m p r du s) := by
    rw [← hsuccess, ← congrArg PidRegs.kp hpid]
    exact tunerDecide_of_enough_crossings hmin
  rw [exec_atSample_eq hrun hcancel hm hp hr hdu, hdecide, finish_sampled res (hmotor.trans hm.symm) hsaved, hres]
  simp [finishPid, pidClear, finishRegs, finishNoteOutputs, finishNoteErrors]

/-- Settles O59: the budget decides, or the trial's end with the next gain past the sweep. -/
theorem sweepFailureRestoresTheGains : Obligations.SweepFailureRestoresTheGains := by
  intro rate t s m p r du k' hrun hcancel hm hp hr hdu hfew hwhy
  obtain ⟨hmotor, -, hk, hsweep, hstart, hsaved⟩ := frame_of_eq_recordCrossing hr
  rw [← hsweep, ← hstart, ← hk] at hwhy
  have hdecide : tunerDecide t (sampled m p r du s) = finish .failure (sampled m p { r with k := k' } du s) := by
    rcases hwhy with ⟨hspent, rfl⟩ | ⟨hbudget, hend, hpast, rfl⟩
    · exact tunerDecide_of_budget_spent (s := sampled m p r du s) hfew hspent
    · exact (tunerDecide_of_trial_end (s := sampled m p r du s) hfew hbudget hend).trans (if_pos hpast)
  rw [exec_atSample_eq hrun hcancel hm hp hr hdu, hdecide,
    finish_sampled (r := { r with k := k' }) .failure (hmotor.trans hm.symm) hsaved]
  simp [finishPid, pidClear, finishRegs, finishNoteOutputs, finishNoteErrors]

end Sys2Proof.Machine
end

section
/-! SUPPORT. The control loop of 46_control_loop.md: a poll byte by byte, each with the `MSM_CYCLE` its frame brings
(R350), and that every operation completes (R362). -/

namespace Sys2Proof.Machine

/-! ### The frame among a byte's outputs -/

theorem frameIn_eq_none_iff {os : List Output} : frameIn os = none ↔ ∀ cs, .frame cs ∉ os := by
  induction os with
  | nil => simp [frameIn]
  | cons o os ih =>
    cases o with
    | frame cs => exact iff_of_false nofun fun h => h cs List.mem_cons_self
    | _ => simp [frameIn, ih]

/-- What a byte adds to the outputs is what its scan emitted. -/
theorem feedScan_outs_of_outputs {b : Byte} {s : State} {os : List Output}
    (h : (feedByte b s).outputs = s.outputs ++ os) : (feedScan b s).outs = os :=
  List.append_cancel_left ((applyScan_outputs (feedScan b s) s).symm.trans h)

/-! ### One byte of a poll, and the rest after it (R350) -/

section

variable {t : Time} {ovr : PerMotor (Option Q)} {b : Byte} {s : State}

theorem pollByte_of_frame {cs : ChannelSet} (h : frameIn (feedScan b s).outs = some cs) :
    pollByte t ovr s b = motionCycle cs t ovr (feedByte b s) := by
  rw [pollByte, h]

theorem pollByte_of_no_frame (h : frameIn (feedScan b s).outs = none) : pollByte t ovr s b = feedByte b s := by
  rw [pollByte, h]

theorem exec_msmCycle (cs : ChannelSet) : exec (.msmCycle cs t ovr) s = .next (motionCycle cs t ovr s) := rfl

theorem exec_loopPoll (bs : List Byte) : exec (.loopPoll bs t ovr) s = .next (pollBytes bs t ovr s) := rfl

theorem exec_loopPoll_cons (bs : List Byte) :
    exec (.loopPoll (b :: bs) t ovr) s = exec (.loopPoll bs t ovr) (pollByte t ovr s b) := rfl

end

/-- Settles O43: the first byte is one `pollByte`, with or without a cycle by what its scan emitted. -/
theorem pollRunsACycleForEachFrame : Obligations.PollRunsACycleForEachFrame := by
  refine ⟨fun t ovr s => exec_loopPoll [], ?_, ?_⟩
  · intro b bs t ovr s s1 cs os hfeed hout
    obtain rfl : feedByte b s = s1 := Host.Outcome.next.inj hfeed
    have hframe : frameIn (feedScan b s).outs = some cs := congrArg frameIn (feedScan_outs_of_outputs hout)
    refine ⟨_, _, exec_msmCycle cs, exec_loopPoll bs, ?_⟩
    rw [exec_loopPoll_cons, pollByte_of_frame hframe, exec_loopPoll]
  · intro b bs t ovr s s1 os hfeed hout hno
    obtain rfl : feedByte b s = s1 := Host.Outcome.next.inj hfeed
    have hnone : frameIn (feedScan b s).outs = none :=
      (congrArg frameIn (feedScan_outs_of_outputs hout)).trans (frameIn_eq_none_iff.mpr hno)
    refine ⟨_, exec_loopPoll bs, ?_⟩
    rw [exec_loopPoll_cons, pollByte_of_no_frame hnone, exec_loopPoll]

/-! ### Completion (R362) -/

/-- A guarded operation completes when both its branches do. -/
theorem exists_next_ite {c : Prop} [Decidable c] {x y : Host.Outcome State Fault Refusal}
    (hx : ∃ s', x = .next s') (hy : ∃ s', y = .next s') : ∃ s', (if c then x else y) = .next s' := by
  split
  · exact hx
  · exact hy

/-- Settles O5, by the form of the operation: it answers a next state at once, or both branches of its guard do. -/
theorem everyOperationCompletes : Obligations.EveryOperationCompletes := by
  intro i s
  cases i with
  | iframe | pframe | fdFeed | fdFeedBurst | msmCycle | loopPoll | preSample | preTick | preRpm | cmMap | cmRange
  | reservedF => exact ⟨_, rfl⟩
  | pidUpdate | pidReset | pidSetGains | pidSetSetpoint | pidSetBounds | atStart | atCancel =>
    exact exists_next_ite ⟨_, rfl⟩ ⟨_, rfl⟩
  | atSample => exact exists_next_ite ⟨_, rfl⟩ (exists_next_ite ⟨_, rfl⟩ ⟨_, rfl⟩)
  | reset variant =>
    cases variant with
    | none => exact ⟨_, rfl⟩
    | some => exact exists_next_ite ⟨_, rfl⟩ ⟨_, rfl⟩

end Sys2Proof.Machine
end

section
/-! SUPPORT. The authority of the tuner (60_exceptions.md R390): what leaves an owned motor alone, part by part of the
operations that are not the tuner's, and the parts of the tuner's own operations that move the ownership. -/

namespace Sys2Proof.Machine

/-! ### Leaving the owned motor alone -/

/-- From `s` to `s'` the ownership stands, and the motor the tuner owns, if there is one, keeps its command, actuation
shadow and PID registers and is sent no call. -/
structure SparesOwned (s s' : State) : Prop where
  owner : s'.tuneOwner = s.tuneOwner
  regs : ∀ {m}, s.tuneOwner = some m →
    s'.cmd.get m = s.cmd.get m ∧ s'.act.get m = s.act.get m ∧ s'.pid.get m = s.pid.get m
  calls : ∃ os, s'.outputs = s.outputs ++ os ∧ ∀ {m}, s.tuneOwner = some m → ∀ o ∈ os, isCallFor m o = false

namespace SparesOwned

variable {s s' s'' : State}

/-- A change that writes no register of a motor and puts out no actuation call at all. -/
theorem of_events {os : List Output} (howner : s'.tuneOwner = s.tuneOwner) (hcmd : s'.cmd = s.cmd)
    (hact : s'.act = s.act) (hpid : s'.pid = s.pid) (hout : s'.outputs = s.outputs ++ os)
    (hos : ∀ o ∈ os, ∀ m, isCallFor m o = false) : SparesOwned s s' where
  owner := howner
  regs _ := by rw [hcmd, hact, hpid]; exact ⟨rfl, rfl, rfl⟩
  calls := ⟨os, hout, fun _ o ho => hos o ho _⟩

/-- A change that writes no register of a motor and puts out nothing. -/
theorem of_silent (howner : s'.tuneOwner = s.tuneOwner) (hcmd : s'.cmd = s.cmd) (hact : s'.act = s.act)
    (hpid : s'.pid = s.pid) (hout : s'.outputs = s.outputs) : SparesOwned s s' :=
  of_events howner hcmd hact hpid (hout.trans (List.append_nil _).symm) (List.forall_mem_nil _)

@[refl] theorem refl (s : State) : SparesOwned s s := of_silent rfl rfl rfl rfl rfl

@[trans] theorem trans (h : SparesOwned s s') (h' : SparesOwned s' s'') : SparesOwned s s'' where
  owner := h'.owner.trans h.owner
  regs hm := by
    obtain ⟨hcmd, hact, hpid⟩ := h.regs hm
    obtain ⟨hcmd', hact', hpid'⟩ := h'.regs (h.owner.trans hm)
    exact ⟨hcmd'.trans hcmd, hact'.trans hact, hpid'.trans hpid⟩
  calls := by
    obtain ⟨os, hout, hos⟩ := h.calls
    obtain ⟨os', hout', hos'⟩ := h'.calls
    refine ⟨os ++ os', by rw [hout', hout, List.append_assoc], fun hm => ?_⟩
    exact List.forall_mem_append.mpr ⟨hos hm, hos' (h.owner.trans hm)⟩

/-- What every byte spares, a sequence of bytes spares. -/
theorem foldl {f : State → Byte → State} (hf : ∀ s b, SparesOwned s (f s b)) (bs : List Byte) (s : State) :
    SparesOwned s (bs.foldl f s) :=
  List.foldlRecOn bs f (refl s) fun _ h b _ => h.trans (hf _ b)

end SparesOwned

/-! ### The frame decoder -/

/-- What holds of frames and rejections holds of everything a scan puts out: (S1) drops a byte (`case3`), (S3) accepts
(`case5`), (S4) rejects (`case6`), and elsewhere the scan stops. -/
theorem scanLoop_forall_outs {P : Output → Prop} (hframe : ∀ cs, P (.frame cs)) (hreject : ∀ c, P (.fdReject c))
    (v : Variant) (n : Nat) (r : Scan) (h : ∀ o ∈ r.outs, P o) : ∀ o ∈ (scanLoop v n r).outs, P o := by
  have hmore : ∀ {r : Scan} {x}, (∀ o ∈ r.outs, P o) → P x → ∀ o ∈ r.outs ++ [x], P o := fun h hx =>
    List.forall_mem_append.mpr ⟨h, List.forall_mem_singleton.mpr hx⟩
  fun_induction scanLoop v n r with
  | case1 | case2 | case4 => exact h
  | case3 _ _ _ _ ih => exact ih h
  | case5 _ _ _ _ _ _ ih => exact ih (hmore h (hframe _))
  | case6 _ _ _ _ _ _ ih => exact ih (hmore h (hreject _))

theorem feedByte_sparesOwned (s : State) (b : Byte) : SparesOwned s (feedByte b s) :=
  .of_events rfl rfl rfl rfl rfl
    (scanLoop_forall_outs (fun _ _ => rfl) (fun _ _ => rfl) _ _ _ (List.forall_mem_nil _))

theorem feedBytes_sparesOwned (bs : List Byte) (s : State) : SparesOwned s (feedBytes bs s) :=
  .foldl feedByte_sparesOwned bs s

/-! ### The motion cycle (R227) -/

section

variable (cs : ChannelSet) (it : Intent) (t : Time) (ovr : PerMotor (Option Q)) (s : State)

theorem warmupCycle_sparesOwned : SparesOwned s (warmupCycle s) := by
  rw [warmupCycle_eq]
  exact .of_events rfl rfl rfl rfl rfl (by simp [isCallFor])

/-- Before the motors are driven a cycle puts out events only. -/
theorem settled_sparesOwned : SparesOwned s (settled cs s) := by
  rw [settled_eq]
  simp only [List.append_assoc]
  refine .of_events rfl rfl rfl rfl rfl ?_
  simp only [List.mem_append, List.mem_ite_nil_left, List.mem_ite_nil_right, List.mem_singleton]
  rintro o (⟨-, rfl⟩ | ⟨-, rfl⟩ | ⟨-, rfl⟩ | ⟨-, rfl⟩) <;> exact fun _ => rfl

theorem adviseNotArmed_sparesOwned : SparesOwned s (adviseNotArmed it ovr t s) := by
  rw [adviseNotArmed_eq]
  split
  · exact .of_events rfl rfl rfl rfl rfl (by simp [isCallFor])
  · rfl

/-- The calls of one motor are for that motor. -/
theorem isCallFor_of_mem_motorCalls {d : Spin} {v : Q} {m n : Motor} {b : Bool} {sent : Option Bool} {o : Output}
    (h : o ∈ motorCalls d v m b sent) : isCallFor n o = (m == n) := by
  simp only [motorCalls, List.mem_append, List.mem_cons, List.not_mem_nil, or_false, List.mem_ite_nil_left] at h
  rcases h with (rfl | rfl) | ⟨-, rfl⟩ <;> rfl

/-- The owned motor is not driven, and driving the other one reaches only that one. -/
theorem driveMotor_sparesOwned (n : Motor) : SparesOwned s (driveMotor it ovr n s) := by
  rw [driveMotor_eq]
  split
  · rfl
  · rename_i hfree
    have hne : ∀ {m}, s.tuneOwner = some m → n ≠ m := fun hm hnm => hfree (hnm ▸ hm)
    refine ⟨rfl, fun hm => ?_, _, rfl, fun hm o ho => ?_⟩
    · exact ⟨PerMotor.get_set_ne _ _ (hne hm).symm, PerMotor.get_set_ne _ _ (hne hm).symm, rfl⟩
    · rw [isCallFor_of_mem_motorCalls ho]
      exact beq_eq_false_iff_ne.mpr (hne hm)

theorem motionCycle_sparesOwned : SparesOwned s (motionCycle cs t ovr s) := by
  unfold motionCycle
  split
  · exact warmupCycle_sparesOwned s
  · rw [processedCycle_eq]
    exact (settled_sparesOwned cs s).trans ((driveMotor_sparesOwned ..).trans
      ((driveMotor_sparesOwned ..).trans (adviseNotArmed_sparesOwned ..)))

theorem pollByte_sparesOwned (b : Byte) : SparesOwned s (pollByte t ovr s b) := by
  unfold pollByte
  split
  · exact (feedByte_sparesOwned s b).trans (motionCycle_sparesOwned ..)
  · exact feedByte_sparesOwned s b

theorem pollBytes_sparesOwned (bs : List Byte) : SparesOwned s (pollBytes bs t ovr s) :=
  .foldl (pollByte_sparesOwned t ovr) bs s

end

/-! ### The other units -/

section

variable {s : State}

theorem ret_sparesOwned (v : Result) : SparesOwned s (s.ret v) := .of_silent rfl rfl rfl rfl rfl

theorem raise_sparesOwned (e : ErrorCond) : SparesOwned s (s.raise e) := .of_silent rfl rfl rfl rfl rfl

theorem setPre_sparesOwned (m : Motor) (p : PreRegs) : SparesOwned s (s.setPre m p) := .of_silent rfl rfl rfl rfl rfl

theorem setTuner_sparesOwned (r : TunerRegs) : SparesOwned s (s.setTuner r) := .of_silent rfl rfl rfl rfl rfl

/-- The host's PID operations write the registers of a motor the tuner does not own (R298). -/
theorem setPid_sparesOwned {n : Motor} (hfree : s.tuneOwner ≠ some n) (p : PidRegs) : SparesOwned s (s.setPid n p) where
  owner := rfl
  regs hm := ⟨rfl, rfl, PerMotor.get_set_ne _ _ fun hmn => hfree (hmn ▸ hm)⟩
  calls := ⟨[], (List.append_nil _).symm, fun _ => List.forall_mem_nil _⟩

theorem preSample_sparesOwned (m : Motor) (delta : Nat) (elapsed : Q) : SparesOwned s (preSample m delta elapsed s) := by
  unfold preSample
  split
  · exact raise_sparesOwned _
  · exact setPre_sparesOwned m _

theorem preDifference_sparesOwned (m : Motor) (count : Nat) (t : Time) :
    SparesOwned s (preDifference m count t s) := by
  unfold preDifference
  split
  · split
    · exact raise_sparesOwned _
    · exact preSample_sparesOwned m _ _
  · rfl

theorem preTick_sparesOwned (m : Motor) (count : Nat) (t : Time) : SparesOwned s (preTick m count t s) :=
  (preDifference_sparesOwned m count t).trans (setPre_sparesOwned m _)

end

/-! ### Every operation but the tuner's and RESET -/

/-- The authority partition of R390, said once for both statements: only the three operations left out can reach the
owned motor or move the ownership. -/
theorem exec_sparesOwned {i : Instr} {s s' : State} (hreset : ∀ v p, i ≠ .reset v p)
    (hstart : ∀ m sp t, i ≠ .atStart m sp t) (hsample : ∀ r t, i ≠ .atSample r t) (h : exec i s = .next s') :
    SparesOwned s s' := by
  cases i with
  | reset v p => exact absurd rfl (hreset v p)
  | atStart m sp t => exact absurd rfl (hstart m sp t)
  | atSample r t => exact absurd rfl (hsample r t)
  | iframe | pframe | fdFeedBurst => cases h; exact feedBytes_sparesOwned _ s
  | fdFeed b => cases h; exact feedByte_sparesOwned s b
  | msmCycle cs t ovr => cases h; exact motionCycle_sparesOwned cs t ovr s
  | loopPoll bs t ovr => cases h; exact pollBytes_sparesOwned t ovr s bs
  | preSample m delta elapsed => cases h; exact (preSample_sparesOwned m delta elapsed).trans (ret_sparesOwned _)
  | preTick m count t => cases h; exact (preTick_sparesOwned m count t).trans (ret_sparesOwned _)
  | preRpm | cmMap | cmRange => cases h; exact ret_sparesOwned _
  | pidUpdate m meas t =>
    exact ite_eq_next h (fun | _, rfl => ret_sparesOwned _)
      (fun | hfree, rfl => (setPid_sparesOwned hfree _).trans (ret_sparesOwned _))
  | pidReset | pidSetGains | pidSetSetpoint =>
    exact ite_eq_next h (fun | _, rfl => .refl s) (fun | hfree, rfl => setPid_sparesOwned hfree _)
  | pidSetBounds m lo hi =>
    exact ite_eq_next h (fun | _, rfl => .refl s)
      (fun | hallowed, rfl => setPid_sparesOwned (fun hm => hallowed (.inl hm)) _)
  | atCancel => exact ite_eq_next h (fun | _, rfl => setTuner_sparesOwned _) (fun | _, rfl => .refl s)
  | reservedF => cases h; exact .refl s

/-- Settles O13: such an operation spares whatever motor the tuner owns. -/
theorem ownedMotorIsUntouched : Obligations.OwnedMotorIsUntouched := by
  intro i s s' m hm hreset hstart hsample h
  have hspares := exec_sparesOwned hreset hstart hsample h
  obtain ⟨hcmd, hact, hpid⟩ := hspares.regs hm
  obtain ⟨os, hout, hos⟩ := hspares.calls
  exact ⟨hcmd, hact, hpid, hspares.owner.trans hm, os, hout, hos hm⟩

/-! ### The ownership under the tuner's operations -/

section

variable (t : Time) (s : State)

@[simp] theorem startTuner_tuneOwner (m : Motor) (sp : Q) : (startTuner m sp t s).tuneOwner = some m := by
  rw [startTuner_eq]

@[simp] theorem tunerSample_tuneOwner (rate : Q) : (tunerSample rate t s).tuneOwner = s.tuneOwner := by
  rw [tunerSample_eq]

@[simp] theorem beginTrial_tuneOwner : (beginTrial t s).tuneOwner = s.tuneOwner := by
  rw [beginTrial_eq]

@[simp] theorem finish_tuneOwner (res : TuneResult) : (finish res s).tuneOwner = none := by
  rw [finish_eq]

/-- The tests behind a sample end in `finish`, which releases the motor, or keep it. -/
theorem tunerDecide_tuneOwner : (tunerDecide t s).tuneOwner = none ∨ (tunerDecide t s).tuneOwner = s.tuneOwner := by
  unfold tunerDecide
  split
  · exact .inl (finish_tuneOwner ..)
  · split
    · exact .inl (finish_tuneOwner ..)
    · split
      · split
        · exact .inl (finish_tuneOwner ..)
        · exact .inr (beginTrial_tuneOwner ..)
      · exact .inr rfl

end

/-- All `AT_SAMPLE` can do to the ownership. -/
theorem exec_atSample_tuneOwner {rate : Q} {t : Time} {s s' : State} (h : exec (.atSample rate t) s = .next s') :
    s'.tuneOwner = none ∨ s'.tuneOwner = s.tuneOwner := by
  refine ite_eq_next h (fun | _, rfl => .inr rfl) fun _ h => ite_eq_next h (fun | _, rfl => ?_) (fun | _, rfl => ?_)
  · exact .inl (finish_tuneOwner ..)
  · exact (tunerDecide_tuneOwner ..).imp_right (·.trans (tunerSample_tuneOwner ..))

/-- Settles O12: `RESET` and the two operations of the tuner by what they do to the ownership; every other operation
spares it. -/
theorem onlyTheTunerMovesOwnership : Obligations.OnlyTheTunerMovesOwnership := by
  intro i s s' h hmoved
  cases i with
  | reset v p =>
    rcases exec_reset_cases h with rfl | ⟨c, -, rfl⟩
    · exact absurd rfl hmoved
    · exact .inl ⟨v, p, rfl, rfl⟩
  | atStart m sp t =>
    exact ite_eq_next h (fun | _, rfl => absurd rfl hmoved)
      (fun | _, rfl => .inr (.inl ⟨m, sp, t, rfl, startTuner_tuneOwner ..⟩))
  | atSample r t => exact .inr (.inr ⟨r, t, rfl, (exec_atSample_tuneOwner h).resolve_right hmoved⟩)
  | _ => exact absurd (exec_sparesOwned (by simp) (by simp) (by simp) h).owner hmoved

end Sys2Proof.Machine
end

section
/-! SUPPORT. The configuration and `RESET` of 70_reset_and_hazards.md: `valid_cfg` condition by condition (R431), the
two ways `RESET` answers (R420, R432), and the configuration under every other operation (R433). -/

namespace Sys2Proof

/-- A property of both motors is one property of the left and one of the right. -/
theorem forall_motor_iff {p : Motor → Prop} : (∀ m, p m) ↔ p .L ∧ p .R :=
  ⟨fun h => ⟨h .L, h .R⟩, fun ⟨hl, hr⟩ m => match m with | .L => hl | .R => hr⟩

end Sys2Proof

namespace Sys2Proof.Machine

/-! ### `valid_cfg`, group by group (R431) -/

theorem cfgBufOk_iff {c : Cfg} : cfgBufOk c = true ↔ (frameLen c.variant : Int) ≤ c.par.bufCap := decide_eq_true_iff

theorem cfgScaleOk_iff {p : MapperParams} : cfgScaleOk p = true ↔
    0 < p.fullScale ∧ (0 ≤ p.deadzone ∧ p.deadzone < p.fullScale) ∧ p.saneLo ≤ p.saneHi ∧ 0 ≤ p.modeTol := by
  simp only [cfgScaleOk, Bool.and_eq_true, decide_eq_true_eq, and_assoc]

theorem cfgRolesOk_iff {c : Cfg} : cfgRolesOk c = true ↔
    (∀ k ∈ roleChannels c.par.mapper, 1 ≤ k ∧ k ≤ channelCount c.variant) ∧ (roleChannels c.par.mapper).Nodup := by
  simp only [cfgRolesOk, List.all_eq_true, Bool.and_eq_true, decide_eq_true_eq]

theorem cfgMotionOk_iff {p : MotionParams} : cfgMotionOk p = true ↔
    (0 ≤ p.warmupCount ∧ 1 ≤ p.armCount ∧ 0 ≤ p.armBand) ∧ p.brakeLo ≤ p.brakeHi ∧ 0 < p.advInterval := by
  simp only [cfgMotionOk, Bool.and_eq_true, decide_eq_true_eq, and_assoc]

theorem cfgMotorOk_iff {p : Params} : cfgMotorOk p = true ↔
    (∀ m, 0 < p.ppr.get m) ∧ ∀ m, (p.pidInit.get m).outMin0 ≤ (p.pidInit.get m).outMax0 := by
  simp only [cfgMotorOk, Bool.and_eq_true, decide_eq_true_eq, and_assoc, forall_motor_iff, PerMotor.get]

theorem cfgTunerOk_iff {p : TunerParams} : cfgTunerOk p = true ↔
    (0 < p.kpStep ∧ p.kpStart ≤ p.kpEnd) ∧ 3 ≤ p.minCrossings ∧ (0 < p.trialDuration ∧ 0 < p.sweepBudget) ∧
      p.znKdDen ≠ 0 := by
  simp only [cfgTunerOk, Bool.and_eq_true, decide_eq_true_eq, and_assoc]

/-- `valid_cfg` is its six groups of conditions. -/
theorem validCfg_iff {c : Cfg} : validCfg c = true ↔ cfgBufOk c = true ∧ cfgScaleOk c.par.mapper = true ∧
    cfgRolesOk c = true ∧ cfgMotionOk c.par.motion = true ∧ cfgMotorOk c.par = true ∧
    cfgTunerOk c.par.tuner = true := by
  simp only [validCfg, Bool.and_eq_true, and_assoc]

/-- Settles O16: each group is its own conditions of the list, and each variant has the frame length and the channel
count of R12. -/
theorem validConfigurationIsTheListedConditions : Obligations.ValidConfigurationIsTheListedConditions := by
  rintro ⟨variant, par⟩
  rw [validCfg_iff, cfgBufOk_iff, cfgScaleOk_iff, cfgRolesOk_iff, cfgMotionOk_iff, cfgMotorOk_iff, cfgTunerOk_iff]
  simp only [and_assoc]
  cases variant with
  | interval => exact Iff.rfl
  | parity => exact Iff.rfl

/-! ### RESET (R420, R432) -/

section

variable {v : Variant} {par : Params} {s : State}

theorem exec_reset_of_valid (h : validCfg ⟨v, par⟩ = true) : exec (.reset (some v) par) s = .next
    { State.resetWith ⟨v, par⟩ with inbox := s.inbox, outputs := s.outputs, errors := s.errors, result := s.result } :=
  if_pos h

theorem exec_reset_of_invalid (h : validCfg ⟨v, par⟩ = false) : exec (.reset (some v) par) s = .next s :=
  if_neg (Bool.eq_false_iff.mp h)

theorem exec_reset_of_no_variant : exec (.reset none par) s = .next s := rfl

end

/-- Settles O14: `RESET` is refused, or it answers `State.resetWith`, whose registers are those of R60's table. -/
theorem resetSetsEveryRegister : Obligations.ResetSetsEveryRegister :=
  fun _ _ _ => ⟨exec_reset_of_invalid, exec_reset_of_valid⟩

/-- Settles O15: the record is refused for its missing variant (V1) or by `valid_cfg` (V2 to V17). -/
theorem resetRefusesAnInvalidConfiguration : Obligations.ResetRefusesAnInvalidConfiguration := by
  intro v par s hinvalid
  cases v with
  | none => exact exec_reset_of_no_variant
  | some w => exact exec_reset_of_invalid (hinvalid w rfl)

/-! ### The configuration under every other operation (R433) -/

@[simp] theorem warmupCycle_cfg (s : State) : (warmupCycle s).cfg = s.cfg := by rw [warmupCycle_eq]

section

variable (cs : ChannelSet) (t : Time) (ovr : PerMotor (Option Q)) (s : State)

@[simp] theorem processedCycle_cfg : (processedCycle cs t ovr s).cfg = s.cfg := by
  obtain ⟨_, _, _, _, _, _, _, _, _, hframe⟩ := processedCycle_frame cs t ovr s
  rw [hframe]

@[simp] theorem motionCycle_cfg : (motionCycle cs t ovr s).cfg = s.cfg := by
  unfold motionCycle
  split
  · exact warmupCycle_cfg s
  · exact processedCycle_cfg cs t ovr s

end

/-- Every unit leaves the configuration `c` it finds. -/
theorem cfg_eq_keptByUnits (c : Cfg) : KeptByUnits (·.cfg = c) where
  feed _ h := h
  cycle cs t ovr h := (motionCycle_cfg cs t ovr _).trans h
  ret _ h := h
  raise _ h := h
  setPre _ _ _ h := h
  setPid _ _ _ h := h
  start m sp t h := by rwa [startTuner_eq]
  sample rate t h := by rwa [tunerSample_eq]
  trial _ h := h
  trialNumber _ h := h
  cancel _ h := h
  finish res h := by rwa [finish_eq]

/-- Settles O10: every operation but `RESET` is made of what the units do. -/
theorem onlyResetChangesTheConfiguration : Obligations.OnlyResetChangesTheConfiguration := fun _ s _ hi h =>
  (cfg_eq_keptByUnits s.cfg).exec hi rfl h

end Sys2Proof.Machine
end
